-- ==== Sys2Proof/Word.lean ====
section
/-! DEFINITION. The atoms of the block: bytes, 16-bit values, the 7-byte frame by its fields, and the opaque
types the transport brings along. Bytes are atoms (`20_memory.md` R44). -/

namespace Sys2Proof

/-- A byte, 8 bits (`00_scope.md` R10). -/
abbrev Byte := BitVec 8

/-- The value field and the result, 16 bits, unsigned (`00_scope.md` R7). -/
abbrev Value := BitVec 16

/-- The 7-byte frame, one field a byte, in offset order 0 to 6 (`30_encoding.md` R60, R61; `10_state.md` R17). -/
structure Frame where
  /-- Offset 0, Sync. -/
  sync : Byte
  /-- Offset 1, Address. -/
  addr : Byte
  /-- Offset 2, Command-1. -/
  cmd1 : Byte
  /-- Offset 3, Command-2, the opcode. -/
  opcode : Byte
  /-- Offset 4, value high byte. -/
  valHi : Byte
  /-- Offset 5, value low byte. -/
  valLo : Byte
  /-- Offset 6, checksum. -/
  cksum : Byte
  deriving DecidableEq, Repr, Inhabited

/-- The device Endpoint, an opaque value (`00_scope.md` R8, `10_state.md` R31). The block only hands it on; the
token is a name for it and carries no address family, port or width. DESIGN CHOICE, log entry 7. -/
structure Endpoint where
  token : Nat
  deriving DecidableEq, Repr, Inhabited

/-- The underlying I/O cause of a transport failure, an opaque value (`00_scope.md` R8, `10_state.md` R29). The
block copies it and never inspects it. DESIGN CHOICE, log entry 7. -/
structure IoCause where
  token : Nat
  deriving DecidableEq, Repr, Inhabited

/-- The network host of the device, an opaque value of the host layer (`43_host_layer.md` R126). Its format is the
transport's (`91_not_in_source.md` N14). DESIGN CHOICE, log entry 7. -/
structure HostName where
  token : Nat
  deriving DecidableEq, Repr, Inhabited

/-- The network port of the device, an opaque value of the host layer (`43_host_layer.md` R126). DESIGN CHOICE, log
entry 7. -/
structure PortNumber where
  token : Nat
  deriving DecidableEq, Repr, Inhabited

end Sys2Proof
end

