-- ==== Sys2Proof/Config.lean ====
section
/-! DEFINITION. What the source fixes (`00_scope.md` R7), the parameter `EP` (R8), and the free values of the
registers that a reset leaves unspecified (`70_reset_and_hazards.md` R170). -/

namespace Sys2Proof.Config

/-- `SYNC = 0xFF` (`10_state.md` R30). -/
abbrev sync : Byte := 0xFF#8

/-- `ADDR = 0x01` (`10_state.md` R30). -/
abbrev addr : Byte := 0x01#8

/-- `CMD1 = 0x00` (`10_state.md` R30). -/
abbrev cmd1 : Byte := 0x00#8

/-- `FRAME_LEN = 7` (`00_scope.md` R7). -/
abbrev frameLen : Nat := 7

/-- `STATUS = 0`, `OK` (`10_state.md` R28). -/
abbrev statusOk : BitVec 2 := 0#2

/-- `STATUS = 1`, `TransportError` raised by the send (`10_state.md` R28). -/
abbrev statusSendError : BitVec 2 := 1#2

/-- `STATUS = 2`, `TransportError` raised by the receive (`10_state.md` R28). -/
abbrev statusReceiveError : BitVec 2 := 2#2

/-- `STATUS = 3`, `MalformedFrame` (`10_state.md` R28). -/
abbrev statusMalformed : BitVec 2 := 3#2

/-- The parameter `EP`: the Endpoint given to the block before its first command (`00_scope.md` R8, `10_state.md`
R31). It has no body: nothing can be proved of its value. -/
opaque endpoint : Endpoint

/-- The transport's `resolve(host, port) -> Endpoint` (`70_reset_and_hazards.md` R172). It has no body: the transport
decides (log entry 17). -/
opaque resolve : HostName → PortNumber → Endpoint

/-! The registers a reset leaves unspecified (R170), each a free value for the `n`-th reset taken (log entry 5). -/

opaque unspecifiedVal : Nat → Value
opaque unspecifiedCsel : Nat → BitVec 3
opaque unspecifiedTxf : Nat → Frame
opaque unspecifiedAcc : Nat → Byte
opaque unspecifiedRxf : Nat → Frame
opaque unspecifiedRxlen : Nat → Nat
/-- `IDX` keeps its bound of R23. -/
opaque unspecifiedIdx : Nat → Fin 7

end Sys2Proof.Config
end

