-- ==== Sys2Proof/Syntax.lean ====
section
/-! DEFINITION. The instructions of the block: the eight catalogue commands (`41_catalog.md` R94, `00_scope.md`
R13), one constructor per row of `spec/opcode_table.json`. -/

namespace Sys2Proof

/-- A catalogue command with its operand. A set-style command carries a 16-bit value, a get-style command none
(`41_catalog.md` R95, `42_dispatcher.md` R105). -/
inductive Instr where
  /-- `get-pan-steps` (R113). -/
  | getPanSteps
  /-- `get-tilt-steps` (R114). -/
  | getTiltSteps
  /-- `get-pan-max-steps` (R115). -/
  | getPanMaxSteps
  /-- `get-tilt-max-steps` (R116). -/
  | getTiltMaxSteps
  /-- `set-pan-steps val` (R117). -/
  | setPanSteps (val : Value)
  /-- `set-tilt-steps val` (R118). -/
  | setTiltSteps (val : Value)
  /-- `get-temperature` (R119). -/
  | getTemperature
  /-- `get-voltage` (R120). -/
  | getVoltage
  deriving DecidableEq, Repr

end Sys2Proof
end

