-- ==== Sys2Proof/Machine/Catalog.lean ====
section
/-! DEFINITION. The Command Catalog (`41_catalog.md`): LOOKUP, and the numbering of the commands on the command port
(`10_state.md` R27). A constant function without state (R92). -/

namespace Sys2Proof.Machine

/-- A row of the catalogue: the opcode and the carries-a-value flag (`10_state.md` R32). -/
structure CatalogRow where
  opcode : Byte
  hasValue : Bool
  deriving DecidableEq, Repr

/-- `LOOKUP(csel)`, every one of the eight selectors (`41_catalog.md` R93, R94). The last arm is selector 7. -/
def lookup (csel : BitVec 3) : CatalogRow :=
  match csel.toNat with
  | 0 => ⟨0x51#8, false⟩
  | 1 => ⟨0x53#8, false⟩
  | 2 => ⟨0x55#8, false⟩
  | 3 => ⟨0x57#8, false⟩
  | 4 => ⟨0x71#8, true⟩
  | 5 => ⟨0x73#8, true⟩
  | 6 => ⟨0x91#8, false⟩
  | _ => ⟨0x9B#8, false⟩

/-- The selector of a command (`10_state.md` R27). -/
def selectorOf : Instr → BitVec 3
  | .getPanSteps => 0#3
  | .getTiltSteps => 1#3
  | .getPanMaxSteps => 2#3
  | .getTiltMaxSteps => 3#3
  | .setPanSteps _ => 4#3
  | .setTiltSteps _ => 5#3
  | .getTemperature => 6#3
  | .getVoltage => 7#3

/-- The command that a selector and the 16 bits beside it name: a get-style command drops the value
(`10_state.md` R27, R35). The last arm is selector 7. -/
def commandOf (csel : BitVec 3) (val : Value) : Instr :=
  match csel.toNat with
  | 0 => .getPanSteps
  | 1 => .getTiltSteps
  | 2 => .getPanMaxSteps
  | 3 => .getTiltMaxSteps
  | 4 => .setPanSteps val
  | 5 => .setTiltSteps val
  | 6 => .getTemperature
  | _ => .getVoltage

end Sys2Proof.Machine
end

