-- ==== Sys2Proof/Machine/Codec.lean ====
section
/-! DEFINITION. The Frame Codec (`40_codec.md`): the byte and value helpers, CHECKSUM, ENCODE in both forms, DECODE,
and the named checks of a request frame (`30_encoding.md` R70). Functions of their operands alone (R79). -/

namespace Sys2Proof.Machine

/-- `hi8(v) = (v >> 8) & 0xFF` (`00_scope.md` R11). -/
def hi8 (v : Value) : Byte := ((v >>> 8) &&& 0xFF#16).setWidth 8

/-- `lo8(v) = v & 0xFF` (`00_scope.md` R11). -/
def lo8 (v : Value) : Byte := (v &&& 0xFF#16).setWidth 8

/-- `cat16(h, l) = (h << 8) | l` (`00_scope.md` R11). -/
def cat16 (h l : Byte) : Value := (h.setWidth 16 <<< 8) ||| l.setWidth 16

/-- One addition of the accumulator: 8 bits wide, the carry out of bit 7 dropped (`40_codec.md` R82, R84). -/
def accAdd (acc b : Byte) : Byte := acc + b

/-- `CHECKSUM(b1, ..., b5)`: `ACC` cleared, then the five bytes added in order (`40_codec.md` R82). -/
def checksum (b1 b2 b3 b4 b5 : Byte) : Byte :=
  accAdd (accAdd (accAdd (accAdd (accAdd 0x00#8 b1) b2) b3) b4) b5

/-- The checksum of a frame's offsets 1 to 5 (`30_encoding.md` R68). -/
def frameChecksum (f : Frame) : Byte := checksum f.addr f.cmd1 f.opcode f.valHi f.valLo

/-- `ENCODE(opcode, value)` (`40_codec.md` R80). Total on all opcodes and values. -/
def encodeFrame (opcode : Byte) (value : Value) : Frame :=
  { sync := Config.sync
    addr := Config.addr
    cmd1 := Config.cmd1
    opcode := opcode
    valHi := hi8 value
    valLo := lo8 value
    cksum := checksum Config.addr Config.cmd1 opcode (hi8 value) (lo8 value) }

/-- The bytes of a frame in offset order 0 to 6 (`20_memory.md` R43). -/
def frameBytes (f : Frame) : List Byte :=
  [f.sync, f.addr, f.cmd1, f.opcode, f.valHi, f.valLo, f.cksum]

/-- The frame that seven bytes spell, and nothing for any other length (`20_memory.md` R45, R46). -/
def frameOfBytes : List Byte → Option Frame
  | [b0, b1, b2, b3, b4, b5, b6] => some ⟨b0, b1, b2, b3, b4, b5, b6⟩
  | _ => none

/-- The value field of a received frame, `cat16(RXF[4], RXF[5])` (`30_encoding.md` R67). -/
def frameValue (f : Frame) : Value := cat16 f.valHi f.valLo

/-- `DECODE(bytes, n)` with `n` the length of `bytes`: the value, or `none` for `MalformedFrame` (`40_codec.md` R85).
No other byte is looked at (R86). -/
def decodeReply (bytes : List Byte) : Option Value := (frameOfBytes bytes).map frameValue

/-! The byte-serial form of ENCODE (`40_codec.md` R83). -/

/-- The registers the byte-serial form works on. -/
structure SerialRegs where
  txf : Frame
  acc : Byte
  idx : Fin 7
  deriving DecidableEq, Repr

/-- `TXF[i] <- b`. -/
def writeFrameByte (f : Frame) (i : Fin 7) (b : Byte) : Frame :=
  match i with
  | 0 => { f with sync := b }
  | 1 => { f with addr := b }
  | 2 => { f with cmd1 := b }
  | 3 => { f with opcode := b }
  | 4 => { f with valHi := b }
  | 5 => { f with valLo := b }
  | 6 => { f with cksum := b }

/-- The byte emitted at an index: the `case IDX of` of R83. -/
def serialByte (opcode : Byte) (value : Value) (acc : Byte) (i : Fin 7) : Byte :=
  match i with
  | 0 => Config.sync
  | 1 => Config.addr
  | 2 => Config.cmd1
  | 3 => opcode
  | 4 => hi8 value
  | 5 => lo8 value
  | 6 => acc

/-- One turn of R83's loop at index `i`. -/
def serialTurn (opcode : Byte) (value : Value) (r : SerialRegs) (i : Fin 7) : SerialRegs :=
  { txf := writeFrameByte r.txf i (serialByte opcode value r.acc i)
    acc := if 1 ≤ i.val ∧ i.val ≤ 5 then accAdd r.acc (serialByte opcode value r.acc i) else r.acc
    idx := i }

/-- The byte-serial ENCODE, from whatever the registers held (`40_codec.md` R83). -/
def encodeSerial (opcode : Byte) (value : Value) (r : SerialRegs) : SerialRegs :=
  [0, 1, 2, 3, 4, 5, 6].foldl (serialTurn opcode value) { r with acc := 0x00#8, idx := 0 }

/-! The checks of a request frame, each by name (`30_encoding.md` R70). -/

def syncOk (f : Frame) : Bool := f.sync == Config.sync

def addrOk (f : Frame) : Bool := f.addr == Config.addr

def cmd1Ok (f : Frame) : Bool := f.cmd1 == Config.cmd1

/-- Offset 6 equals `csum5` of offsets 1 to 5. -/
def checksumOk (f : Frame) : Bool := f.cksum == frameChecksum f

/-- The opcodes of the six get-style commands (`30_encoding.md` R69). -/
def getOpcodes : List Byte := [0x51#8, 0x53#8, 0x55#8, 0x57#8, 0x91#8, 0x9B#8]

/-- The opcodes of the two set-style commands (`30_encoding.md` R69). -/
def setOpcodes : List Byte := [0x71#8, 0x73#8]

/-- Offset 3 is one of the eight opcodes. -/
def opcodeOk (f : Frame) : Bool := getOpcodes.contains f.opcode || setOpcodes.contains f.opcode

/-- For a get-style opcode offsets 4 and 5 are both 0x00. -/
def getValueOk (f : Frame) : Bool := !getOpcodes.contains f.opcode || (f.valHi == 0x00#8 && f.valLo == 0x00#8)

end Sys2Proof.Machine
end

