-- ==== Sys2Proof/Machine/Operands.lean ====
section
/-! DEFINITION. The operand forms: the one value operand of a command, its gating by the carries-a-value flag, and the
request frame that a selector and a value select. -/

namespace Sys2Proof.Machine

/-- The value operand an instruction carries, if it is set-style (`41_catalog.md` R95). -/
def operandOf : Instr → Option Value
  | .setPanSteps val => some val
  | .setTiltSteps val => some val
  | .getPanSteps => none
  | .getTiltSteps => none
  | .getPanMaxSteps => none
  | .getTiltMaxSteps => none
  | .getTemperature => none
  | .getVoltage => none

/-- Value gating: `VAL` when the flag is 1, 0x0000 when it is 0 (`42_dispatcher.md` R105). -/
def gateValue (hasValue : Bool) (val : Value) : Value := if hasValue then val else 0x0000#16

/-- The request frame of a command in flight: `ENCODE(opcode, gated VAL)` of its catalogue row (`42_dispatcher.md`
R106). -/
def requestFrame (csel : BitVec 3) (val : Value) : Frame :=
  encodeFrame (lookup csel).opcode (gateValue (lookup csel).hasValue val)

end Sys2Proof.Machine
end

