-- ==== Sys2Proof/WellFormed.lean ====
section
/-! DEFINITION. Well-formedness: of an instruction (its operand fits the 16-bit value field), and of a frame as a
request of this block (`30_encoding.md` R70). -/

namespace Sys2Proof

/-- An instruction is well formed when its value fits the 16-bit field (`10_state.md` R16). The operand's type has
16 bits, so every instruction is. -/
def Instr.wellFormed : Instr → Bool
  | .getPanSteps => true
  | .getTiltSteps => true
  | .getPanMaxSteps => true
  | .getTiltMaxSteps => true
  | .setPanSteps val => decide (val.toNat < 65536)
  | .setTiltSteps val => decide (val.toNat < 65536)
  | .getTemperature => true
  | .getVoltage => true

/-- A frame is a request of this block exactly when the six checks of `30_encoding.md` R70 hold. -/
def Frame.isRequest (f : Frame) : Bool :=
  Machine.syncOk f && Machine.addrOk f && Machine.cmd1Ok f && Machine.opcodeOk f && Machine.checksumOk f &&
    Machine.getValueOk f

end Sys2Proof
end

