-- ==== Sys2Proof/Decode.lean ====
section
/-! DEFINITION. The decoder of request frames (`30_encoding.md` R70): total on any bytes, rejecting by name, and after it
the encoder, written from the frame column of R69. The block itself only builds requests (R70, `41_catalog.md` R97):
what it fetches is the selector and value on port `HC`, read by `Machine.commandOf`. -/

namespace Sys2Proof

/-- Why bytes are no request of this block, one name per condition of R70. -/
inductive DecodeError where
  /-- Not exactly 7 bytes. -/
  | wrongLength (n : Nat)
  /-- Offset 0 is not 0xFF. -/
  | badSync (b : Byte)
  /-- Offset 1 is not 0x01. -/
  | badAddress (b : Byte)
  /-- Offset 2 is not 0x00. -/
  | badCommand1 (b : Byte)
  /-- Offset 3 is none of the eight opcodes. -/
  | unknownOpcode (b : Byte)
  /-- Offset 6 is not the sum of offsets 1 to 5. -/
  | badChecksum (b : Byte)
  /-- A get-style opcode with a value that is not 0x0000. -/
  | valueWithGet (v : Value)
  deriving DecidableEq, Repr

/-- The get-style command with no value, refused when the value field is not zero. -/
def getWithoutValue (i : Instr) (f : Frame) : Except DecodeError Instr :=
  if Machine.getValueOk f then .ok i else .error (.valueWithGet (Machine.frameValue f))

/-- The command that offsets 3 to 5 spell (`30_encoding.md` R69). -/
def decodeOpcode (f : Frame) : Except DecodeError Instr :=
  if f.opcode = 0x51#8 then getWithoutValue .getPanSteps f
  else if f.opcode = 0x53#8 then getWithoutValue .getTiltSteps f
  else if f.opcode = 0x55#8 then getWithoutValue .getPanMaxSteps f
  else if f.opcode = 0x57#8 then getWithoutValue .getTiltMaxSteps f
  else if f.opcode = 0x71#8 then .ok (.setPanSteps (Machine.frameValue f))
  else if f.opcode = 0x73#8 then .ok (.setTiltSteps (Machine.frameValue f))
  else if f.opcode = 0x91#8 then getWithoutValue .getTemperature f
  else if f.opcode = 0x9B#8 then getWithoutValue .getVoltage f
  else .error (.unknownOpcode f.opcode)

/-- The command a frame spells (`30_encoding.md` R70). -/
def decodeFrame (f : Frame) : Except DecodeError Instr :=
  if !Machine.syncOk f then .error (.badSync f.sync)
  else if !Machine.addrOk f then .error (.badAddress f.addr)
  else if !Machine.cmd1Ok f then .error (.badCommand1 f.cmd1)
  else if !Machine.opcodeOk f then .error (.unknownOpcode f.opcode)
  else if !Machine.checksumOk f then .error (.badChecksum f.cksum)
  else decodeOpcode f

/-- The decoder: the command that any bytes spell, or why they spell none. -/
def decode (bytes : List Byte) : Except DecodeError Instr :=
  match Machine.frameOfBytes bytes with
  | none => .error (.wrongLength bytes.length)
  | some f => decodeFrame f

/-- The frame `FF 01 00 op hh ll cc` of a set-style command, `base = 0x01 + op` and `cc = (base + hh + ll) mod 256`
(`30_encoding.md` R69, `42_dispatcher.md` R117, R118). -/
def encodeSet (op base : Byte) (val : Value) : List Byte :=
  [0xFF#8, 0x01#8, 0x00#8, op, val.extractLsb' 8 8, val.extractLsb' 0 8,
    base + val.extractLsb' 8 8 + val.extractLsb' 0 8]

/-- The encoder, written from the request frame column of `30_encoding.md` R69. -/
def encode : Instr → List Byte
  | .getPanSteps => [0xFF#8, 0x01#8, 0x00#8, 0x51#8, 0x00#8, 0x00#8, 0x52#8]
  | .getTiltSteps => [0xFF#8, 0x01#8, 0x00#8, 0x53#8, 0x00#8, 0x00#8, 0x54#8]
  | .getPanMaxSteps => [0xFF#8, 0x01#8, 0x00#8, 0x55#8, 0x00#8, 0x00#8, 0x56#8]
  | .getTiltMaxSteps => [0xFF#8, 0x01#8, 0x00#8, 0x57#8, 0x00#8, 0x00#8, 0x58#8]
  | .setPanSteps val => encodeSet 0x71#8 0x72#8 val
  | .setTiltSteps val => encodeSet 0x73#8 0x74#8 val
  | .getTemperature => [0xFF#8, 0x01#8, 0x00#8, 0x91#8, 0x00#8, 0x00#8, 0x92#8]
  | .getVoltage => [0xFF#8, 0x01#8, 0x00#8, 0x9B#8, 0x00#8, 0x00#8, 0x9C#8]

/-- Byte `i` of the 56-bit frame word: offset 0 is its most significant byte (`30_encoding.md` R77). -/
def tableWordByte (w i : Nat) : Byte := BitVec.ofNat 8 (w >>> (8 * (6 - i)))

/-- The seven bytes of the 56-bit frame word, in offset order (`30_encoding.md` R77). -/
def tableWordBytes (w : Nat) : List Byte := (List.range 7).map (tableWordByte w)

/-- What the decoder reads from the bits `w` of a row of `spec/opcode_table.json`: a 56-bit word numbered as R77 numbers
it (log entry 10). A word of more than 56 bits is no frame. -/
def decodeTableWord (nbits w : Nat) : Option Instr :=
  if nbits ≤ 56 ∧ w < 2 ^ 56 then (decode (tableWordBytes w)).toOption else none

end Sys2Proof
end

