-- ==== Sys2Proof/Machine/State.lean ====
section
/-! DEFINITION. The state of the block as plain data: every register of `10_state.md`, what the other agents offer at
the block's ports, and the history of what the block presented and delivered. -/

namespace Sys2Proof.Machine

/-- Why the machine stops with a fault: never. The block's errors are completions and its missing reply is a wait
(`60_exceptions.md` R149, R155; `42_dispatcher.md` R109), so no instruction raises a fault (log entry 12). -/
inductive Fault where
  deriving DecidableEq, Repr

/-- Why an instruction has no meaning. -/
inductive Refusal where
  /-- Raised by an arm of `exec` whose instruction has no meaning yet. Safe. No arm raises it. -/
  | notModelled (mnemonic : String)
  deriving DecidableEq, Repr

/-- `PHASE` (`10_state.md` R22). Its numeric encoding is visible to nothing. -/
inductive Phase where
  | idle
  | encode
  | send
  | await
  | decode
  deriving DecidableEq, Repr

/-- The direction of a transport failure (`10_state.md` R36). -/
inductive Direction where
  | send
  | receive
  deriving DecidableEq, Repr

/-- A completion record (`10_state.md` R36). -/
inductive Completion where
  /-- `OK(result)`. -/
  | ok (result : Value)
  /-- `ERR(TransportError, dir, cause)`. -/
  | transportError (dir : Direction) (cause : IoCause)
  /-- `ERR(MalformedFrame)`. -/
  | malformedFrame
  deriving DecidableEq, Repr

/-- The three errors the block raises (`60_exceptions.md` R150 to R152). -/
inductive BlockError where
  | sendFailed (cause : IoCause)
  | receiveFailed (cause : IoCause)
  | malformedReply
  deriving DecidableEq, Repr

/-- The transport's answer to a send (`10_state.md` R33). -/
inductive SendAnswer where
  | sent
  | fail (cause : IoCause)
  deriving DecidableEq, Repr

/-- The transport's answer to a receive (`10_state.md` R34). The length `n` of a datagram is the length of its bytes,
any natural number. -/
inductive ReceiveEvent where
  | dgram (bytes : List Byte) (src : Endpoint)
  | fail (cause : IoCause)
  deriving DecidableEq, Repr

/-- What the block presents on port `TS` (`10_state.md` R33). -/
structure Datagram where
  frame : Frame
  ep : Endpoint
  deriving DecidableEq, Repr

/-- What the other agents offer at the block's ports at one moment: any combination (`92_eei_decisions.md` D27, log
entry 2). -/
structure Inputs where
  /-- Port `RST` (`10_state.md` R37). -/
  rst : Bool
  /-- Port `HC`: the host presents a command (`10_state.md` R35). -/
  hcValid : Bool
  /-- Port `HC`: the selector lines. -/
  csel : BitVec 3
  /-- Port `HC`: the value lines, which always carry some 16 bits (`42_dispatcher.md` R105). -/
  val : Value
  /-- Port `TS`: the transport's answer, if it gives one. -/
  tsAnswer : Option SendAnswer
  /-- Port `TR`: the datagram or failure the transport offers, if any. -/
  trEvent : Option ReceiveEvent
  deriving DecidableEq, Repr

/-- A moment at which nothing is offered. -/
def Inputs.silent : Inputs :=
  { rst := false, hcValid := false, csel := 0#3, val := 0x0000#16, tsAnswer := none, trEvent := none }

/-- The whole state. -/
structure State where
  /-- `PHASE` (R22). -/
  phase : Phase
  /-- `IDX`, 3 bits, 0 to 6 (R23). -/
  idx : Fin 7
  /-- `VAL` (R16). -/
  val : Value
  /-- `TXF[0..6]` (R17). -/
  txf : Frame
  /-- `ACC` (R18). -/
  acc : Byte
  /-- `RXF[0..6]` (R19). -/
  rxf : Frame
  /-- `RXLEN` (R19). -/
  rxlen : Nat
  /-- `RESULT`, or no value (R20, R26). -/
  result : Option Value
  /-- `RVALID` (R26). -/
  rvalid : Bool
  /-- `CSEL` (R27). -/
  csel : BitVec 3
  /-- `STATUS` (R28). -/
  status : BitVec 2
  /-- `CAUSE`, or no value (R29). -/
  cause : Option IoCause
  /-- `EP`, configuration (R31). -/
  ep : Endpoint
  /-- The ports' inputs at this moment (log entry 2). -/
  port : Inputs
  /-- The inputs at the later moments, soonest first; after the last, nothing is offered (log entry 2). -/
  future : List Inputs
  /-- The datagrams presented on port `TS` so far, oldest first (log entry 3). -/
  sent : List Datagram
  /-- The completion records delivered on port `HR` so far, oldest first (log entry 3). -/
  completions : List Completion
  /-- How many resets have been taken: the argument of the free values (log entry 5). -/
  draws : Nat
  deriving DecidableEq, Repr

/-- The machine right after reset (`10_state.md` R41): idle, `RVALID` and `STATUS` 0, `RESULT` and `CAUSE` without a
value, `EP` as configured. The registers R41 leaves unspecified are 0 (DESIGN CHOICE, log entry 4). Nothing is offered
at the ports. -/
def State.reset : State :=
  { phase := .idle
    idx := 0
    val := 0x0000#16
    txf := ⟨0x00#8, 0x00#8, 0x00#8, 0x00#8, 0x00#8, 0x00#8, 0x00#8⟩
    acc := 0x00#8
    rxf := ⟨0x00#8, 0x00#8, 0x00#8, 0x00#8, 0x00#8, 0x00#8, 0x00#8⟩
    rxlen := 0
    result := none
    rvalid := false
    csel := 0#3
    status := Config.statusOk
    cause := none
    ep := Config.endpoint
    port := Inputs.silent
    future := []
    sent := []
    completions := []
    draws := 0 }

end Sys2Proof.Machine
end

