-- ==== Sys2Proof/Machine/Flags.lean ====
section
/-! DEFINITION. The flags and the outcome registers: `BUSY`, `RVALID` with `RESULT`, `STATUS` with `CAUSE`. The block has
no condition codes, no carry and no overflow flag (`10_state.md` section 4, `40_codec.md` R82). -/

namespace Sys2Proof.Machine

/-- `BUSY`: `PHASE` is not `IDLE` (`10_state.md` R25). -/
def State.busy (s : State) : Bool := decide (s.phase ≠ .idle)

/-- Port `HC`'s `ready`, `not BUSY` (`10_state.md` R35). -/
def State.ready (s : State) : Bool := !s.busy

/-- `RVALID <- 0`, after which `RESULT` holds no value (`10_state.md` R26). -/
def invalidateResult (s : State) : State := { s with rvalid := false, result := none }

/-- `RESULT <- v; RVALID <- 1` (`42_dispatcher.md` R110). -/
def validateResult (v : Value) (s : State) : State := { s with rvalid := true, result := some v }

/-- `STATUS` and `CAUSE` of a completion, `CAUSE` with a value for a transport failure only (`10_state.md` R28, R29). -/
def setOutcome (status : BitVec 2) (cause : Option IoCause) (s : State) : State :=
  { s with status := status, cause := cause }

/-- The `STATUS` code of an error (`60_exceptions.md` R150 to R152). -/
def errorStatus : BlockError → BitVec 2
  | .sendFailed _ => Config.statusSendError
  | .receiveFailed _ => Config.statusReceiveError
  | .malformedReply => Config.statusMalformed

/-- What an error leaves in `CAUSE` (`60_exceptions.md` R158). -/
def errorCause : BlockError → Option IoCause
  | .sendFailed cause => some cause
  | .receiveFailed cause => some cause
  | .malformedReply => none

/-- The completion record of an error (`10_state.md` R36). -/
def errorRecord : BlockError → Completion
  | .sendFailed cause => .transportError .send cause
  | .receiveFailed cause => .transportError .receive cause
  | .malformedReply => .malformedFrame

/-- The record that the outcome registers `STATUS`, `CAUSE` and `RESULT` spell: the host's read path
(`10_state.md` R21, R36). -/
def State.record (s : State) : Option Completion :=
  if s.status = Config.statusOk then s.result.map .ok
  else if s.status = Config.statusSendError then s.cause.map (.transportError .send)
  else if s.status = Config.statusReceiveError then s.cause.map (.transportError .receive)
  else some .malformedFrame

end Sys2Proof.Machine
end

