-- ==== Sys2Proof/Machine/Ops.lean ====
section
/-! DEFINITION. The shared operations: the ports, a completion, raising an error (`60_exceptions.md` R158, the block's
trap entry; there is no return from one, R160), reset, and the passing of a moment. -/

namespace Sys2Proof.Machine

/-- The block presents `(TXF[0..6], EP)` on port `TS` (`10_state.md` R33). -/
def present (s : State) : State := { s with sent := s.sent ++ [⟨s.txf, s.ep⟩] }

/-- `Complete(r)`: the record goes to port `HR`, and the block is idle again (`10_state.md` R36, `60_exceptions.md`
R160). -/
def complete (r : Completion) (s : State) : State :=
  { s with completions := s.completions ++ [r], phase := .idle }

/-- `raise <Error>(info)`: `STATUS`, `CAUSE`, the error completion and `PHASE <- IDLE`, and nothing else
(`60_exceptions.md` R158). -/
def raise (e : BlockError) (s : State) : State :=
  complete (errorRecord e) (setOutcome (errorStatus e) (errorCause e) s)

/-- The reset input's effect, from any phase: idle, `RVALID` and `STATUS` 0, every other register unspecified, `EP`
unaffected, no datagram and no completion (`70_reset_and_hazards.md` R170). `RESULT` and `CAUSE` hold no value
(`10_state.md` R26, R29). Each unspecified register takes a free value (log entry 5). -/
def takeReset (s : State) : State :=
  { s with
    phase := .idle
    rvalid := false
    status := Config.statusOk
    result := none
    cause := none
    val := Config.unspecifiedVal s.draws
    csel := Config.unspecifiedCsel s.draws
    txf := Config.unspecifiedTxf s.draws
    acc := Config.unspecifiedAcc s.draws
    rxf := Config.unspecifiedRxf s.draws
    rxlen := Config.unspecifiedRxlen s.draws
    idx := Config.unspecifiedIdx s.draws
    draws := s.draws + 1 }

/-- The next moment's inputs come to the ports; after the last moment nothing is offered (log entry 2). -/
def nextMoment (s : State) : State :=
  { s with port := s.future.headD Inputs.silent, future := s.future.tail }

/-- The command in flight, as `CSEL` and `VAL` hold it (`10_state.md` R16, R27). -/
def State.inFlight (s : State) : Instr := commandOf s.csel s.val

/-- What the block works on at this moment: the command on port `HC` when idle, if the host presents one, and the
command in flight otherwise (`10_state.md` R24, R35). This is the machine's fetch. -/
def fetch (s : State) : Option Instr :=
  if s.phase = .idle then (if s.port.hcValid then some (commandOf s.port.csel s.port.val) else none)
  else some s.inFlight

end Sys2Proof.Machine
end

