-- ==== Sys2Proof/Machine/Exchange.lean ====
section
/-! DEFINITION. The dispatcher (`42_dispatcher.md`): the steps R104 to R110, each atomic, the step an instruction takes
in each phase, and EXCHANGE as one function (R100). -/

namespace Sys2Proof.Machine

/-- What executing an instruction answers. -/
abbrev Result := Host.Outcome State Fault Refusal

/-- Step ACCEPT (`42_dispatcher.md` R104): `CSEL`, `VAL` written, `RVALID <- 0`, `PHASE <- ENCODE`. -/
def accept (csel : BitVec 3) (val : Value) (s : State) : State :=
  { invalidateResult s with csel := csel, val := val, phase := .encode }

/-- ENCODE's registers: `TXF` and `ACC` as `40_codec.md` R80 and R82 write them, `IDX` at the last index of R83 (log
entry 8). -/
def buildFrame (s : State) : State :=
  { s with
    txf := requestFrame s.csel s.val
    acc := frameChecksum (requestFrame s.csel s.val)
    idx := 6 }

/-- Step BUILD-AND-SEND (`42_dispatcher.md` R106). -/
def buildAndSend (s : State) : State := { present (buildFrame s) with phase := .send }

/-- Step SEND-ANSWER (`42_dispatcher.md` R107). Without an answer the block waits. -/
def sendAnswer (s : State) : State :=
  match s.port.tsAnswer with
  | none => s
  | some .sent => { s with phase := .await }
  | some (.fail cause) => raise (.sendFailed cause) s

/-- Step RECEIVE (`42_dispatcher.md` R108): `RXLEN <- n`, `RXF` written only when `n = 7`, the sender dropped. -/
def receiveDatagram (bytes : List Byte) (s : State) : State :=
  { s with rxlen := bytes.length, rxf := (frameOfBytes bytes).getD s.rxf, phase := .decode }

/-- Steps RECEIVE and RECEIVE-FAIL (`42_dispatcher.md` R108, R109). Without an event the block waits, without bound. -/
def receive (s : State) : State :=
  match s.port.trEvent with
  | none => s
  | some (.dgram bytes _) => receiveDatagram bytes s
  | some (.fail cause) => raise (.receiveFailed cause) s

/-- The success half of DECODE-AND-COMPLETE: `RESULT`, `RVALID`, `STATUS <- 0`, `Complete(OK(RESULT))`
(`42_dispatcher.md` R110). -/
def completeOk (v : Value) (s : State) : State :=
  complete (.ok v) (setOutcome Config.statusOk none (validateResult v s))

/-- Step DECODE-AND-COMPLETE (`42_dispatcher.md` R110). -/
def decodeAndComplete (s : State) : State :=
  if s.rxlen = Config.frameLen then completeOk (frameValue s.rxf) s else raise .malformedReply s

/-- The step of the exchange in flight, phase by phase (`10_state.md` R24). In `IDLE` there is none. -/
def advance (s : State) : State :=
  match s.phase with
  | .idle => s
  | .encode => buildAndSend s
  | .send => sendAnswer s
  | .await => receive s
  | .decode => decodeAndComplete s

/-- The step the block takes for a command with the value `val` beside it: idle, it is accepted; in flight, its exchange
advances; with another command in flight it is held off and nothing changes (`10_state.md` R35, `92_eei_decisions.md`
D13, log entry 1). -/
def exchangeStep (i : Instr) (val : Value) (s : State) : Result :=
  if s.phase = .idle then .next (accept (selectorOf i) val s)
  else if s.inFlight = i then .next (advance s)
  else .next s

/-- EXCHANGE as one piece (`42_dispatcher.md` R100): the frame it sends, and its completion record given the transport's
two answers, the second of which a failed send leaves unread. -/
def exchange (csel : BitVec 3) (val : Value) (answer : SendAnswer) (event : ReceiveEvent) : Frame × Completion :=
  (requestFrame csel val,
    match answer, event with
    | .fail cause, _ => .transportError .send cause
    | .sent, .fail cause => .transportError .receive cause
    | .sent, .dgram bytes _ =>
      match decodeReply bytes with
      | some v => .ok v
      | none => .malformedFrame)

end Sys2Proof.Machine
end

