-- ==== Sys2Proof/Machine/PositionCommands.lean ====
section
/-! DEFINITION. The six position commands: pan and tilt steps, read, maximum and set (`42_dispatcher.md` R113 to R118).
A get-style command leaves the port's value lines in `VAL` at accept (R104) and sends 0x0000 (R105). -/

namespace Sys2Proof.Machine

/-- `get-pan-steps` (R113): `CSEL = 0`. -/
def execGetPanSteps (s : State) : Result := exchangeStep .getPanSteps s.port.val s

/-- `get-tilt-steps` (R114): `CSEL = 1`. -/
def execGetTiltSteps (s : State) : Result := exchangeStep .getTiltSteps s.port.val s

/-- `get-pan-max-steps` (R115): `CSEL = 2`. -/
def execGetPanMaxSteps (s : State) : Result := exchangeStep .getPanMaxSteps s.port.val s

/-- `get-tilt-max-steps` (R116): `CSEL = 3`. -/
def execGetTiltMaxSteps (s : State) : Result := exchangeStep .getTiltMaxSteps s.port.val s

/-- `set-pan-steps val` (R117): `CSEL = 4`, no range check of `val`. -/
def execSetPanSteps (val : Value) (s : State) : Result := exchangeStep (.setPanSteps val) val s

/-- `set-tilt-steps val` (R118): `CSEL = 5`, no range check of `val`. -/
def execSetTiltSteps (val : Value) (s : State) : Result := exchangeStep (.setTiltSteps val) val s

end Sys2Proof.Machine
end

