-- ==== Sys2Proof/Machine/SensorCommands.lean ====
section
/-! DEFINITION. The two sensor commands (`42_dispatcher.md` R119, R120). The block returns 16 bits, unsigned; the sign of
a temperature and the scale of a voltage are the host's. -/

namespace Sys2Proof.Machine

/-- `get-temperature` (R119): `CSEL = 6`. -/
def execGetTemperature (s : State) : Result := exchangeStep .getTemperature s.port.val s

/-- `get-voltage` (R120): `CSEL = 7`. -/
def execGetVoltage (s : State) : Result := exchangeStep .getVoltage s.port.val s

end Sys2Proof.Machine
end

