-- ==== Sys2Proof/Machine/Dispatch.lean ====
section
/-! DEFINITION. One arm per instruction, each its own meaning. -/

namespace Sys2Proof.Machine

def exec (i : Instr) (s : State) : Host.Outcome State Fault Refusal :=
  match i with
  | .getPanSteps => Sys2Proof.Machine.execGetPanSteps s
  | .getTiltSteps => Sys2Proof.Machine.execGetTiltSteps s
  | .getPanMaxSteps => Sys2Proof.Machine.execGetPanMaxSteps s
  | .getTiltMaxSteps => Sys2Proof.Machine.execGetTiltMaxSteps s
  | .setPanSteps val => Sys2Proof.Machine.execSetPanSteps val s
  | .setTiltSteps val => Sys2Proof.Machine.execSetTiltSteps val s
  | .getTemperature => Sys2Proof.Machine.execGetTemperature s
  | .getVoltage => Sys2Proof.Machine.execGetVoltage s

end Sys2Proof.Machine
end

