-- ==== Sys2Proof/Machine/Step.lean ====
section
/-! DEFINITION. One step of the machine: the block's one atomic step at this moment, then the next moment's inputs come
to the ports. -/

namespace Sys2Proof.Machine

/-- The block's step at this moment: reset when `RST` is asserted (`70_reset_and_hazards.md` R170), else the step of the
command it works on, else, idle with no command presented, none (`10_state.md` R24). -/
def blockStep (s : State) : Host.Outcome State Fault Refusal :=
  if s.port.rst then .next (takeReset s)
  else
    match fetch s with
    | none => .next s
    | some i => exec i s

/-- One step: the block's step, and the moment passes. -/
def step (s : State) : Host.Outcome State Fault Refusal :=
  match blockStep s with
  | .next t => .next (nextMoment t)
  | .fault r => .fault r
  | .refused r => .refused r

/-- The state with the instruction of a table word presented on port `HC` of an idle block, where `step` takes its next
command from (log entry 10). A word that is no request presents nothing. -/
def State.withFetchWord (s : State) (nbits w : Nat) : State :=
  match decodeTableWord nbits w with
  | some i =>
    { s with
      phase := .idle
      port := { s.port with
                rst := false, hcValid := true, csel := selectorOf i, val := (operandOf i).getD 0x0000#16 } }
  | none => { s with phase := .idle, port := { s.port with rst := false, hcValid := false } }

end Sys2Proof.Machine
end

