-- ==== Sys2Proof/Machine/HostLayer.lean ====
section
/-! DEFINITION. The host layer (`43_host_layer.md`): the Device Interface and the Unit Converter, the software that drives
the block. It is outside the block (R5, R121): no field of `State` belongs to it. Each operation is a command of the block,
run on the block, plus host arithmetic (R76, R131). Log entries 14, 17, 18 and 19. -/

namespace Sys2Proof.Machine.HostLayer

/-! ## Devices and their variants -/

/-- `HOST_RATIO_KIND` (R129): the source does not settle it, so it is a parameter. -/
inductive RatioKind where
  | integer
  | real
  deriving DecidableEq, Repr

/-- A steps-per-degree ratio, the exact quotient `num / den`. -/
structure Ratio where
  num : Nat
  den : Nat
  deriving DecidableEq, Repr

/-- The number a ratio stands for. -/
def Ratio.value (r : Ratio) : Rat := (r.num : Rat) / r.den

/-- The two host variables of a Device, computed once at construction (R125, R128). -/
structure Calibration where
  panRatio : Ratio
  tiltRatio : Ratio
  deriving DecidableEq, Repr

/-- A Device: one instance of the block, with its `EP`, and the two ratios (R125). -/
structure Device extends Calibration where
  block : State
  deriving DecidableEq, Repr

/-- The construction inputs of the UDP-backed variant (R126), with the defaults 360 and 135, and the parameter
`HOST_RATIO_KIND` of the host model (R129). R126 does not state the type and width of the two degree parameters: that they
are natural numbers of any size is a DESIGN CHOICE, log entry 19. -/
structure Params where
  host : HostName
  port : PortNumber
  kind : RatioKind
  maxPanDegrees : Nat := 360
  maxTiltDegrees : Nat := 135
  deriving DecidableEq, Repr

/-- The failures the host can see (R148), with the two arithmetic faults of R130 and R146. -/
inductive HostFault where
  /-- The answer of an operation that a variant does not override (R123). -/
  | notSupported
  /-- The block's `TransportError`, unchanged (R131). -/
  | transportError (dir : Direction) (cause : IoCause)
  /-- The block's `MalformedFrame`, unchanged (R131). -/
  | malformedFrame
  /-- A zero maximum-degrees input at construction, or a zero ratio at a degree read (R130). -/
  | divisionByZero
  /-- A product `(deg mod modulus) * ratio` over 0xFFFF (R146). -/
  | stepsOverflow
  deriving DecidableEq, Repr

/-- What an operation returns. -/
inductive HostValue where
  /-- A setter returns nothing (R136, R137). -/
  | done
  /-- The raw 16 bits, unsigned (R132 to R135). -/
  | steps (v : Value)
  /-- A signed 16-bit quantity (R138). -/
  | signed (t : Int)
  /-- Volts, exact (R139). -/
  | volts (u : Rat)
  /-- Whole degrees (R140, R141). -/
  | degrees (d : Nat)
  deriving DecidableEq, Repr

/-- The twelve operations of the Device Interface (R122). A degree is a natural number of any size (DESIGN CHOICE, log
entry 14). -/
inductive HostOp where
  | getPanSteps
  | getTiltSteps
  | getPanMaxSteps
  | getTiltMaxSteps
  | setPanSteps (steps : Value)
  | setTiltSteps (steps : Value)
  | getTemperature
  | getVoltage
  | getPanDegrees
  | getTiltDegrees
  | setPanDegrees (deg : Nat)
  | setTiltDegrees (deg : Nat)
  deriving DecidableEq, Repr

/-- How a variant does one operation: the one command it issues, or a failure before any exchange, and what it makes of
the result of a successful one (R123, R131). -/
structure Method where
  command : Calibration → Except HostFault Instr
  result : Calibration → Value → Except HostFault HostValue

/-- The default of every operation: it fails and issues no command (R123, R124). -/
def notSupported : Method := { command := fun _ => .error .notSupported, result := fun _ _ => .error .notSupported }

/-- The Device Interface: a method for each of the twelve operations, `notSupported` where a variant gives none
(R122, R124). -/
structure Interface where
  getPanSteps : Method := notSupported
  getTiltSteps : Method := notSupported
  getPanMaxSteps : Method := notSupported
  getTiltMaxSteps : Method := notSupported
  setPanSteps : Value → Method := fun _ => notSupported
  setTiltSteps : Value → Method := fun _ => notSupported
  getTemperature : Method := notSupported
  getVoltage : Method := notSupported
  getPanDegrees : Method := notSupported
  getTiltDegrees : Method := notSupported
  setPanDegrees : Nat → Method := fun _ => notSupported
  setTiltDegrees : Nat → Method := fun _ => notSupported

/-- A variant's method for an operation: the virtual dispatch of R124. -/
def Interface.method (v : Interface) : HostOp → Method
  | .getPanSteps => v.getPanSteps
  | .getTiltSteps => v.getTiltSteps
  | .getPanMaxSteps => v.getPanMaxSteps
  | .getTiltMaxSteps => v.getTiltMaxSteps
  | .setPanSteps steps => v.setPanSteps steps
  | .setTiltSteps steps => v.setTiltSteps steps
  | .getTemperature => v.getTemperature
  | .getVoltage => v.getVoltage
  | .getPanDegrees => v.getPanDegrees
  | .getTiltDegrees => v.getTiltDegrees
  | .setPanDegrees deg => v.setPanDegrees deg
  | .setTiltDegrees deg => v.setTiltDegrees deg

/-- The base variant: it overrides nothing (R123). -/
def base : Interface := {}

/-! ## Host arithmetic -/

/-- The ratio `maxSteps / maxDegrees` under either kind (R128, R129); nothing for zero degrees (R130). -/
def ratioOf (kind : RatioKind) (maxSteps : Value) (maxDegrees : Nat) : Except HostFault Ratio :=
  if maxDegrees = 0 then .error .divisionByZero
  else match kind with
    | .integer => .ok ⟨maxSteps.toNat / maxDegrees, 1⟩
    | .real => .ok ⟨maxSteps.toNat, maxDegrees⟩

/-- `(deg mod modulus) * ratio`, floored (R129, R142, R143). -/
def stepsOf (modulus : Nat) (r : Ratio) (deg : Nat) : Nat := (deg % modulus) * r.num / r.den

/-- The product `(deg mod modulus) * ratio` itself, before any floor, is at most 0xFFFF (R146). -/
def productFits (modulus : Nat) (r : Ratio) (deg : Nat) : Bool := decide ((deg % modulus) * r.num ≤ 0xFFFF * r.den)

/-- The steps as the 16-bit operand of a set, and a fault for a product over 0xFFFF (R146, log entry 18). -/
def stepsOperand (modulus : Nat) (r : Ratio) (deg : Nat) : Except HostFault Value :=
  if productFits modulus r deg then .ok (BitVec.ofNat 16 (stepsOf modulus r deg)) else .error .stepsOverflow

/-- `steps / ratio`, truncated, and the fault of a zero ratio (R129, R130, R140). -/
def degreesOf (r : Ratio) (v : Value) : Except HostFault HostValue :=
  if r.num = 0 then .error .divisionByZero else .ok (.degrees (v.toNat * r.den / r.num))

/-- The signed reading of a result, two's complement (R138, PRESUMED there as GK1). -/
def signedReading (v : Value) : Int := if v.toNat < 0x8000 then v.toNat else (v.toNat : Int) - 65536

/-- A read: one command, and its result shown one way, whatever the ratios (R132 to R135, R138, R139). -/
def readMethod (i : Instr) (shown : Value → HostValue) : Method :=
  { command := fun _ => .ok i, result := fun _ v => .ok (shown v) }

/-- A set: the acknowledgment is dropped (R136, R137, R142, R143). -/
def setMethod (command : Calibration → Except HostFault Instr) : Method :=
  { command := command, result := fun _ _ => .ok .done }

/-- The UDP-backed variant: it overrides all twelve operations (R124, R132 to R143). A value goes with the sets only
(R131). The moduli are the literals 360 and 135 (R142, R143). -/
def udp : Interface :=
  { getPanSteps := readMethod .getPanSteps .steps
    getTiltSteps := readMethod .getTiltSteps .steps
    getPanMaxSteps := readMethod .getPanMaxSteps .steps
    getTiltMaxSteps := readMethod .getTiltMaxSteps .steps
    setPanSteps := fun steps => setMethod fun _ => .ok (.setPanSteps steps)
    setTiltSteps := fun steps => setMethod fun _ => .ok (.setTiltSteps steps)
    getTemperature := readMethod .getTemperature fun v => .signed (signedReading v)
    getVoltage := readMethod .getVoltage fun v => .volts ((v.toNat : Rat) / 100)
    getPanDegrees := { command := fun _ => .ok .getPanSteps, result := fun c v => degreesOf c.panRatio v }
    getTiltDegrees := { command := fun _ => .ok .getTiltSteps, result := fun c v => degreesOf c.tiltRatio v }
    setPanDegrees := fun deg => setMethod fun c => (stepsOperand 360 c.panRatio deg).map .setPanSteps
    setTiltDegrees := fun deg => setMethod fun c => (stepsOperand 135 c.tiltRatio deg).map .setTiltSteps }

/-- The one command an operation issues on a variant. -/
def commandFor (v : Interface) (c : Calibration) (op : HostOp) : Except HostFault Instr := (v.method op).command c

/-- The value of a completion, or its error unchanged (R131). -/
def completionValue : Completion → Except HostFault Value
  | .ok v => .ok v
  | .transportError dir cause => .error (.transportError dir cause)
  | .malformedFrame => .error .malformedFrame

/-- What an operation returns on a variant, given the completion of the command it issued (R131). -/
def finish (v : Interface) (c : Calibration) (op : HostOp) (r : Completion) : Except HostFault HostValue :=
  (completionValue r).bind ((v.method op).result c)

/-- The two ratios, from the maximum steps that construction read: pan first (R128, R130). -/
def calibrate (p : Params) (panMax tiltMax : Value) : Except HostFault Calibration :=
  (ratioOf p.kind panMax p.maxPanDegrees).bind fun panRatio =>
  (ratioOf p.kind tiltMax p.maxTiltDegrees).map fun tiltRatio => ⟨panRatio, tiltRatio⟩

/-! ## Driving the block -/

/-- A moment at which the host presents nothing: port `HC` is the host's own. -/
def quiet (m : Inputs) : Inputs := { m with hcValid := false }

/-- The host presents a command now, and then nothing while it waits. A getter's command carries the default value
0x0000 (R131, `10_state.md` R35). -/
def presentCommand (i : Instr) (s : State) : State :=
  { s with
    port := { s.port with hcValid := true, csel := selectorOf i, val := (operandOf i).getD 0x0000#16 }
    future := s.future.map quiet }

/-- At most `fuel` steps, up to the one that delivers record number `n` on port `HR`. -/
def awaitRecord (n : Nat) : Nat → State → Option (State × Completion)
  | 0, _ => none
  | fuel + 1, s =>
    match step s with
    | .next t =>
      match t.completions[n]? with
      | some r => some (t, r)
      | none => awaitRecord n fuel t
    | .fault _ => none
    | .refused _ => none

/-- One exchange of the host with its block: the command is presented to an idle block, and the caller blocks until the
completion record comes (R131). The answer `none` says that it blocks for ever: the transport never answers, or a reset
abandons the exchange (`42_dispatcher.md` R109, `70_reset_and_hazards.md` R171). After the last moment of the inputs
nothing more is offered, so `future.length + 2` steps decide it (`issue_none` of `Laws/Host.lean`). The host that waits
for each completion never finds the block busy (R174). Log entry 17. -/
def issue (i : Instr) (s : State) : Option (State × Completion) :=
  if s.ready then awaitRecord s.completions.length (s.future.length + 2) (presentCommand i s) else none

/-- A whole operation of a Device on a variant: a failure before the exchange leaves the block alone, and otherwise the
block runs the operation's one command. The ratios stay (R123, R125, R131). -/
def operate (v : Interface) (op : HostOp) (d : Device) : Option (Device × Except HostFault HostValue) :=
  match commandFor v d.toCalibration op with
  | .error e => some (d, .error e)
  | .ok i => (issue i d.block).map fun x => ({ d with block := x.1 }, finish v d.toCalibration op x.2)

/-- How construction ends, if it ends. -/
inductive Constructed where
  /-- Opened and calibrated (R127). -/
  | device (d : Device)
  /-- The error surfaced. What then becomes of the half-built device is not said: its block is as the exchange left it
  (DESIGN CHOICE, log entry 14). -/
  | failed (block : State) (e : HostFault)
  deriving DecidableEq, Repr

/-- The block's `EP` is configured with the Endpoint that the device's host and port resolve to (R127,
`70_reset_and_hazards.md` R172). -/
def configure (p : Params) (s : State) : State := { s with ep := Config.resolve p.host p.port }

/-- The end of construction: the ratios (R128), or the fault of R130, after both exchanges (DESIGN CHOICE, log
entry 14). -/
def calibrated (p : Params) (panMax tiltMax : Value) (s : State) : Constructed :=
  match calibrate p panMax tiltMax with
  | .ok c => .device { c with block := s }
  | .error e => .failed s e

/-- Construction of the UDP-backed variant on a block: configure `EP`, then `get-pan-max-steps`, then
`get-tilt-max-steps`, then the ratios (R127, R128). The first error surfaces at once, and no further exchange is made
(R127). -/
def construct (p : Params) (s : State) : Option Constructed :=
  (issue .getPanMaxSteps (configure p s)).bind fun x =>
    match completionValue x.2 with
    | .error e => some (.failed x.1 e)
    | .ok panMax =>
      (issue .getTiltMaxSteps x.1).map fun y =>
        match completionValue y.2 with
        | .error e => .failed y.1 e
        | .ok tiltMax => calibrated p panMax tiltMax y.1

end Sys2Proof.Machine.HostLayer
end

