-- ==== Sys2Proof/Safety.lean ====
section
/-! DEFINITION. What claims call a good state: the invariant that every step keeps, clause by clause, and the premises on
the inputs that claims name. -/

namespace Sys2Proof.Machine

/-- The request of the command in flight has been handed to the transport and no completion has been delivered. -/
abbrev State.requestOut (s : State) : Prop := s.phase = .send ∨ s.phase = .await ∨ s.phase = .decode

/-- `RVALID = 1` exactly when `RESULT` holds a value (`10_state.md` R26). -/
abbrev ResultMatchesFlag (s : State) : Prop := s.rvalid = s.result.isSome

/-- `CAUSE` holds a value exactly when `STATUS` is 1 or 2 (`10_state.md` R29). -/
abbrev CauseMatchesStatus (s : State) : Prop :=
  s.cause.isSome = true ↔ (s.status = Config.statusSendError ∨ s.status = Config.statusReceiveError)

/-- A valid result is that of an exchange that succeeded (`10_state.md` R26, R28). -/
abbrev ValidMeansOk (s : State) : Prop := s.rvalid = true → s.status = Config.statusOk

/-- While busy no result is valid (`10_state.md` R26, `42_dispatcher.md` R104). -/
abbrev BusyMeansInvalid (s : State) : Prop := s.busy = true → s.rvalid = false

/-- While a request is out, `TXF` is the request of the command in flight, `ACC` its checksum, and it is the last
datagram presented (`42_dispatcher.md` R106). -/
abbrev RequestHeld (s : State) : Prop :=
  s.requestOut →
    s.txf = requestFrame s.csel s.val ∧ s.acc = s.txf.cksum ∧ s.sent.getLast? = some ⟨s.txf, s.ep⟩

/-- Every datagram presented was a request of R70, addressed at `EP` (`30_encoding.md` R70, `10_state.md` R31). -/
abbrev SentAreRequests (s : State) : Prop := ∀ d ∈ s.sent, d.frame.isRequest = true ∧ d.ep = s.ep

/-- Every completion, and the exchange whose request is out, has a datagram of its own (`42_dispatcher.md` R112). -/
abbrev SentCoverCompletions (s : State) : Prop :=
  s.completions.length + (if s.requestOut then 1 else 0) ≤ s.sent.length

/-- The invariant of the machine. -/
abbrev State.Inv (s : State) : Prop :=
  ResultMatchesFlag s ∧ CauseMatchesStatus s ∧ ValidMeansOk s ∧ BusyMeansInvalid s ∧ RequestHeld s ∧
    SentAreRequests s ∧ SentCoverCompletions s

/-- The inputs from this moment on, in order. -/
def State.moments (s : State) : List Inputs := s.port :: s.future

/-- No reset at these moments. A claim that a run ends must not rest on one (`92_eei_decisions.md` D15). -/
abbrev NoReset (ms : List Inputs) : Prop := ∀ m ∈ ms, m.rst = false

/-- The transport does not answer the send at these moments. -/
abbrev SendUnanswered (ms : List Inputs) : Prop := ∀ m ∈ ms, m.tsAnswer = none

/-- The transport offers nothing to a receive at these moments. -/
abbrev ReceiveUnanswered (ms : List Inputs) : Prop := ∀ m ∈ ms, m.trEvent = none

/-- `k` steps of the machine. -/
abbrev run (k : Nat) (s : State) : Host.Outcome State Fault Refusal := Host.Core.run Sys2Proof.core k s

/-- What an outsider sees of two runs that started from `s₁` and `s₂` and reached `t₁` and `t₂`: the phase, the
datagrams and the records that came after the start, and, once one record has come, the outcome registers behind the
read path (`10_state.md` R21, R33, R36). -/
abbrev SameSeen (s₁ s₂ t₁ t₂ : State) : Prop :=
  t₁.phase = t₂.phase ∧
  ∃ ds cs, t₁.sent = s₁.sent ++ ds ∧ t₂.sent = s₂.sent ++ ds ∧
    t₁.completions = s₁.completions ++ cs ∧ t₂.completions = s₂.completions ++ cs ∧
    (cs ≠ [] → t₁.rvalid = t₂.rvalid ∧ t₁.result = t₂.result ∧ t₁.status = t₂.status ∧ t₁.cause = t₂.cause)

/-- Executing an instruction from `s`, step by step through its five phases, ends in `t`. -/
def ExchangeRuns (i : Instr) (s t : State) : Prop :=
  ∃ s₁ s₂ s₃ s₄, exec i s = .next s₁ ∧ exec i s₁ = .next s₂ ∧ exec i s₂ = .next s₃ ∧ exec i s₃ = .next s₄ ∧
    exec i s₄ = .next t

/-- What the block holds at the end of an exchange of `i` from `s` whose seven reply bytes are those of `f`: `RESULT`
from offsets 4 and 5, `STATUS = 0`, the request of `i` presented once, one `OK` record delivered, idle again
(`42_dispatcher.md` R104 to R110). -/
def exchanged (i : Instr) (f : Frame) (s : State) : State :=
  { s with
    csel := selectorOf i
    val := (operandOf i).getD s.port.val
    txf := requestFrame (selectorOf i) ((operandOf i).getD s.port.val)
    acc := frameChecksum (requestFrame (selectorOf i) ((operandOf i).getD s.port.val))
    idx := 6
    sent := s.sent ++ [⟨requestFrame (selectorOf i) ((operandOf i).getD s.port.val), s.ep⟩]
    rxlen := 7
    rxf := f
    result := some (cat16 f.valHi f.valLo)
    rvalid := true
    status := 0#2
    cause := none
    completions := s.completions ++ [.ok (cat16 f.valHi f.valLo)]
    phase := .idle }

end Sys2Proof.Machine
end

