-- ==== Sys2Proof/Certificates/Slice0/Obligations.lean ====
section
/-! DEFINITION. The statements about the machine, one per `def Obligations.<Name> : Prop`. Each docstring names the rule
of `spec/` it formalises. -/

open Sys2Proof Sys2Proof.Machine Sys2Proof.Machine.HostLayer

/-! ## The codec -/

/-- R82: the accumulator's result is the sum of the five bytes modulo 256. -/
def Obligations.ChecksumIsSumModulo256 : Prop :=
  ∀ b1 b2 b3 b4 b5 : Byte,
    (checksum b1 b2 b3 b4 b5).toNat = (b1.toNat + b2.toNat + b3.toNat + b4.toNat + b5.toNat) % 256

/-- R84: adding in any order gives the same byte, and so does reducing once at the end. -/
def Obligations.ChecksumIgnoresOrder : Prop :=
  ∀ (b1 b2 b3 b4 b5 : Byte) (l : List Byte), l.Perm [b1, b2, b3, b4, b5] →
    l.foldl accAdd 0x00#8 = checksum b1 b2 b3 b4 b5 ∧
    BitVec.ofNat 8 ((l.map BitVec.toNat).sum) = checksum b1 b2 b3 b4 b5

/-- R80: the seven fields ENCODE writes, in numbers. -/
def Obligations.EncodeWritesTheSevenFields : Prop :=
  ∀ (op : Byte) (v : Value),
    (encodeFrame op v).sync = 0xFF#8 ∧ (encodeFrame op v).addr = 0x01#8 ∧ (encodeFrame op v).cmd1 = 0x00#8 ∧
    (encodeFrame op v).opcode = op ∧
    (encodeFrame op v).valHi.toNat = v.toNat / 256 ∧ (encodeFrame op v).valLo.toNat = v.toNat % 256 ∧
    (encodeFrame op v).cksum.toNat = (0x01 + 0x00 + op.toNat + v.toNat / 256 + v.toNat % 256) % 256

/-- R81: two different operand pairs give two different frames, and no frame has another address or a Command-1 that is
not zero. -/
def Obligations.EncodeIsInjective : Prop :=
  (∀ (op op' : Byte) (v v' : Value), encodeFrame op v = encodeFrame op' v' → op = op' ∧ v = v') ∧
  (∀ (op : Byte) (v : Value), (encodeFrame op v).addr = 0x01#8 ∧ (encodeFrame op v).cmd1 = 0x00#8)

/-- R83: the byte-serial form writes the `TXF` of R80, whatever the registers held before, and `ACC` ends as the checksum.
That `IDX` ends at the loop's last index 6 is the model's choice, log entry 8 (DEDUCED): no rule says what it holds after
the loop. -/
def Obligations.SerialEncodeAgrees : Prop :=
  ∀ (op : Byte) (v : Value) (r : SerialRegs),
    encodeSerial op v r = ⟨encodeFrame op v, (encodeFrame op v).cksum, 6⟩

/-- R88: the round trip of the value field, for every opcode byte and every value, with no condition. -/
def Obligations.DecodeOfEncodedFrame : Prop :=
  ∀ (op : Byte) (v : Value), decodeReply (frameBytes (encodeFrame op v)) = some v

/-- R89: the checksum invariant of every frame ENCODE produces. It is none of the frames the block accepts: for every
seven bytes but the last, some last byte breaks the sum and DECODE succeeds all the same. -/
def Obligations.EncodedFramesSumUp : Prop :=
  (∀ (op : Byte) (v : Value), ∃ b0 b1 b2 b3 b4 b5 b6 : Byte,
    frameBytes (encodeFrame op v) = [b0, b1, b2, b3, b4, b5, b6] ∧
    b6.toNat = (b1.toNat + b2.toNat + b3.toNat + b4.toNat + b5.toNat) % 256) ∧
  (∀ b0 b1 b2 b3 b4 b5 : Byte, ∃ b6 : Byte,
    b6.toNat ≠ (b1.toNat + b2.toNat + b3.toNat + b4.toNat + b5.toNat) % 256 ∧
    decodeReply [b0, b1, b2, b3, b4, b5, b6] = some (cat16 b4 b5))

/-- R90: split and join are inverse, and nothing is sign-extended. -/
def Obligations.SplitAndJoin : Prop :=
  (∀ v : Value, v.toNat = 256 * (hi8 v).toNat + (lo8 v).toNat ∧ cat16 (hi8 v) (lo8 v) = v) ∧
  (∀ h l : Byte, (cat16 h l).toNat = 256 * h.toNat + l.toNat ∧ hi8 (cat16 h l) = h ∧ lo8 (cat16 h l) = l) ∧
  (∀ h l : Byte, 0x80 ≤ h.toNat → 32768 ≤ (cat16 h l).toNat)

/-- R85: DECODE fails on every length but 7, and on seven bytes gives `cat16` of offsets 4 and 5. -/
def Obligations.DecodeNeedsExactlySevenBytes : Prop :=
  (∀ bs : List Byte, decodeReply bs = none ↔ bs.length ≠ 7) ∧
  (∀ b0 b1 b2 b3 b4 b5 b6 : Byte,
    decodeReply [b0, b1, b2, b3, b4, b5, b6] = some (cat16 b4 b5) ∧
    (cat16 b4 b5).toNat = b4.toNat * 256 + b5.toNat)

/-- R86, R91: two replies of seven bytes that agree at offsets 4 and 5 are the same to the block, and two that do not
agree there are not. -/
def Obligations.DecodeSeesTheValueBytesAlone : Prop :=
  ∀ bs bs' : List Byte, bs.length = 7 → bs'.length = 7 →
    (decodeReply bs = decodeReply bs' ↔ bs[4]? = bs'[4]? ∧ bs[5]? = bs'[5]?)

/-! ## The encoding of commands -/

/-- Every well-formed instruction is decoded back from its encoding, with its operand at every value. -/
def Obligations.DecodeOfEncode : Prop :=
  ∀ i : Instr, i.wellFormed = true → decode (encode i) = .ok i

/-- Every request has one spelling: bytes that decode are the encoding of what they decode to. -/
def Obligations.EncodeOfDecode : Prop :=
  ∀ (bs : List Byte) (i : Instr), decode bs = .ok i → bs = encode i

/-- R70: which byte sequences are requests of this block. -/
def Obligations.RequestsAreRecognised : Prop :=
  ∀ bs : List Byte, (∃ i, decode bs = .ok i) ↔
    ∃ b3 b4 b5 b6 : Byte, bs = [0xFF#8, 0x01#8, 0x00#8, b3, b4, b5, b6] ∧
      b3 ∈ [0x51#8, 0x53#8, 0x55#8, 0x57#8, 0x71#8, 0x73#8, 0x91#8, 0x9B#8] ∧
      b6.toNat = (0x01 + 0x00 + b3.toNat + b4.toNat + b5.toNat) % 256 ∧
      (b3 ∈ [0x51#8, 0x53#8, 0x55#8, 0x57#8, 0x91#8, 0x9B#8] → b4 = 0x00#8 ∧ b5 = 0x00#8)

/-- R69, R105: the frame the block builds for a command, from the catalogue and ENCODE, is the command's row of the
opcode map, whatever value lies beside a get-style command. -/
def Obligations.BlockBuildsTheTableFrame : Prop :=
  ∀ (i : Instr) (v : Value), frameBytes (requestFrame (selectorOf i) ((operandOf i).getD v)) = encode i

/-- Words written out from R69 and R77 decode to the commands they stand for (a sanity statement). -/
def Obligations.SampleWordsDecode : Prop :=
  decodeTableWord 56 0xFF010051000052 = some .getPanSteps ∧
  decodeTableWord 56 0xFF0100711234B8 = some (.setPanSteps 0x1234#16) ∧
  decodeTableWord 56 0xFF010073010075 = some (.setTiltSteps 0x0100#16) ∧
  decodeTableWord 56 0xFF010091000092 = some .getTemperature ∧
  decodeTableWord 56 0xFF01009B00009C = some .getVoltage

/-- R93: the catalogue, row by row. -/
def Obligations.CatalogueRows : Prop :=
  lookup 0#3 = ⟨0x51#8, false⟩ ∧ lookup 1#3 = ⟨0x53#8, false⟩ ∧ lookup 2#3 = ⟨0x55#8, false⟩ ∧
  lookup 3#3 = ⟨0x57#8, false⟩ ∧ lookup 4#3 = ⟨0x71#8, true⟩ ∧ lookup 5#3 = ⟨0x73#8, true⟩ ∧
  lookup 6#3 = ⟨0x91#8, false⟩ ∧ lookup 7#3 = ⟨0x9B#8, false⟩

/-- R27, R35: a selector and a command name each other, and a get-style command drops the value. -/
def Obligations.SelectorNamesItsCommand : Prop :=
  (∀ (i : Instr) (v : Value), commandOf (selectorOf i) ((operandOf i).getD v) = i) ∧
  (∀ (c : BitVec 3) (v : Value), selectorOf (commandOf c v) = c) ∧
  (∀ (c : BitVec 3) (v : Value), operandOf (commandOf c v) = if (lookup c).hasValue then some v else none)

/-- R105: the value that goes into the frame is `VAL` for the two set-style commands and 0x0000 for the six others. -/
def Obligations.ValueIsGated : Prop :=
  ∀ v : Value,
    (∀ c ∈ [4#3, 5#3], frameValue (requestFrame c v) = v) ∧
    (∀ c ∈ [0#3, 1#3, 2#3, 3#3, 6#3, 7#3],
      (requestFrame c v).valHi = 0x00#8 ∧ (requestFrame c v).valLo = 0x00#8)

/-! ## The steps -/

/-- A step runs the instruction that the ports and registers name: the command presented on port `HC` when idle, the
command in flight otherwise (R24, R35, R104). After it the moment passes, which is the model's choice, log entry 2. -/
def Obligations.StepRunsTheFetchedCommand : Prop :=
  ∀ (s t : State) (i : Instr), s.port.rst = false → i.wellFormed = true →
    (s.phase = .idle ∧ s.port.hcValid = true ∧ commandOf s.port.csel s.port.val = i) ∨
      (s.phase ≠ .idle ∧ commandOf s.csel s.val = i) →
    exec i s = .next t → step s = .next (nextMoment t)

/-- A table word that decodes, placed by `withFetchWord`, is the instruction the very next step runs, and that step
accepts it. How the word comes to the port is log entry 10, and the passing of the moment log entry 2. -/
def Obligations.StepRunsTheFetchedWord : Prop :=
  ∀ (s : State) (nbits w : Nat) (i : Instr), decodeTableWord nbits w = some i →
    ∃ t, exec i (s.withFetchWord nbits w) = .next t ∧
      step (s.withFetchWord nbits w) = .next (nextMoment t) ∧ t.inFlight = i ∧ t.phase = .encode

/-- R104: step ACCEPT. Enabled when idle and the host presents a command, and in no other phase. That `RESULT` then
holds no value is R26. That the step lets a moment pass is the model's choice, log entry 2 (DESIGN CHOICE). -/
def Obligations.AcceptStep : Prop :=
  ∀ s : State, s.port.rst = false →
    (s.phase = .idle → s.port.hcValid = true →
      step s = .next (nextMoment
        { s with csel := s.port.csel, val := s.port.val, rvalid := false, result := none, phase := .encode })) ∧
    (s.phase ≠ .idle → ∃ t, step s = .next t ∧ t.csel = s.csel ∧ t.val = s.val ∧ t.phase ≠ .encode)

/-- For every command, executing it on an idle block accepts it: its selector and its operand (for a get-style command
the port's value lines) are written, the result is invalidated and the phase is ENCODE; nothing else changes. -/
def Obligations.ExecAcceptsWhenIdle : Prop :=
  ∀ (i : Instr) (s : State), s.phase = .idle →
    exec i s = .next
      { s with
        csel := selectorOf i, val := (operandOf i).getD s.port.val, rvalid := false, result := none,
        phase := .encode }

/-- R106: step BUILD-AND-SEND, for every command in flight, whatever `IDX` ends at. No other step presents a datagram. -/
def Obligations.BuildAndSendStep : Prop :=
  ∀ (i : Instr) (s : State),
    (s.phase = .encode → s.inFlight = i →
      ∃ k, exec i s = .next
        { s with
          txf := requestFrame s.csel s.val, acc := (requestFrame s.csel s.val).cksum, idx := k,
          sent := s.sent ++ [⟨requestFrame s.csel s.val, s.ep⟩], phase := .send }) ∧
    (s.phase ≠ .encode → ∃ t, exec i s = .next t ∧ t.sent = s.sent)

/-- R107: step SEND-ANSWER, for every command in flight and every answer. -/
def Obligations.SendAnswerStep : Prop :=
  ∀ (i : Instr) (s : State), s.phase = .send → s.inFlight = i →
    (s.port.tsAnswer = some .sent → exec i s = .next { s with phase := .await }) ∧
    (∀ cause, s.port.tsAnswer = some (.fail cause) →
      exec i s = .next
        { s with
          status := 1#2, cause := some cause,
          completions := s.completions ++ [.transportError .send cause], phase := .idle })

/-- R108: step RECEIVE, for every command in flight and every datagram: `RXF` is written for seven bytes only. -/
def Obligations.ReceiveStep : Prop :=
  ∀ (i : Instr) (s : State) (bs : List Byte) (src : Endpoint), s.phase = .await → s.inFlight = i →
    s.port.trEvent = some (.dgram bs src) →
    (∀ b0 b1 b2 b3 b4 b5 b6, bs = [b0, b1, b2, b3, b4, b5, b6] →
      exec i s = .next { s with rxlen := 7, rxf := ⟨b0, b1, b2, b3, b4, b5, b6⟩, phase := .decode }) ∧
    (bs.length ≠ 7 → exec i s = .next { s with rxlen := bs.length, phase := .decode })

/-- R109: step RECEIVE-FAIL, and the absence of a step when nothing is offered. -/
def Obligations.ReceiveFailStep : Prop :=
  ∀ (i : Instr) (s : State), s.phase = .await → s.inFlight = i →
    (∀ cause, s.port.trEvent = some (.fail cause) →
      exec i s = .next
        { s with
          status := 2#2, cause := some cause,
          completions := s.completions ++ [.transportError .receive cause], phase := .idle }) ∧
    (s.port.trEvent = none → exec i s = .next s)

/-- R110: step DECODE-AND-COMPLETE, for every command in flight. That a success leaves `CAUSE` without a value is R29. -/
def Obligations.DecodeAndCompleteStep : Prop :=
  ∀ (i : Instr) (s : State), s.phase = .decode → s.inFlight = i →
    (s.rxlen = 7 →
      exec i s = .next
        { s with
          result := some (cat16 s.rxf.valHi s.rxf.valLo), rvalid := true, status := 0#2, cause := none,
          completions := s.completions ++ [.ok (cat16 s.rxf.valHi s.rxf.valLo)], phase := .idle }) ∧
    (s.rxlen ≠ 7 →
      exec i s = .next
        { s with
          status := 3#2, cause := none, completions := s.completions ++ [.malformedFrame], phase := .idle })

/-- R35, D13: a command other than the one in flight is held off, and nothing changes (log entry 1). -/
def Obligations.OtherCommandIsHeldOff : Prop :=
  ∀ (i : Instr) (s : State), s.busy = true → s.inFlight ≠ i → exec i s = .next s

/-- R158: a step that delivers an error completion writes the code, the cause, the record and `PHASE`, and nothing
else of the block. That the step lets a moment pass is the model's choice, log entry 2 (DESIGN CHOICE). -/
def Obligations.ErrorCompletionWritesNothingElse : Prop :=
  ∀ (s t : State) (c : Completion), step s = .next t → t.completions = s.completions ++ [c] →
    (∀ dir cause, c = .transportError dir cause →
      t = nextMoment
        { s with
          status := (match dir with | .send => 1#2 | .receive => 2#2), cause := some cause,
          completions := s.completions ++ [c], phase := .idle }) ∧
    (c = .malformedFrame →
      t = nextMoment
        { s with status := 3#2, cause := none, completions := s.completions ++ [c], phase := .idle })

/-- What executing any command leaves unchanged, phase by phase: the configuration, the ports' inputs and the model's
counter always; each register outside the step that the spec says writes it (R21). -/
def Obligations.ExecFrame : Prop :=
  ∀ (i : Instr) (s t : State), exec i s = .next t →
    (t.ep = s.ep ∧ t.port = s.port ∧ t.future = s.future ∧ t.draws = s.draws) ∧
    (s.phase ≠ .idle → t.csel = s.csel ∧ t.val = s.val) ∧
    (s.phase ≠ .encode → t.txf = s.txf ∧ t.acc = s.acc ∧ t.idx = s.idx ∧ t.sent = s.sent) ∧
    (s.phase ≠ .await → t.rxlen = s.rxlen ∧ t.rxf = s.rxf) ∧
    (s.phase = .idle ∨ s.phase = .encode →
      t.completions = s.completions ∧ t.status = s.status ∧ t.cause = s.cause) ∧
    (s.phase ≠ .idle → s.phase ≠ .decode → t.result = s.result ∧ t.rvalid = s.rvalid)

/-! ## Whole exchanges -/

/-- Every command completes: executed from an idle block whose transport sends its request and delivers seven bytes, it
runs through its five steps and ends in the state of `exchanged`: its row of the opcode map presented once, the
unsigned value of offsets 4 and 5 in `RESULT` and in one `OK` record. `IDX` ends at 6 (log entry 8). -/
def Obligations.EveryCommandCompletes : Prop :=
  ∀ (i : Instr) (s : State) (f : Frame) (src : Endpoint), s.phase = .idle → s.port.tsAnswer = some .sent →
    s.port.trEvent = some (.dgram (frameBytes f) src) →
    ExchangeRuns i s (exchanged i f s) ∧
    (∃ g, (exchanged i f s).sent = s.sent ++ [⟨g, s.ep⟩] ∧ frameBytes g = encode i)

/-- R113 to R116: the four position reads, each with the frame it always sends, and the completion of R110. -/
def Obligations.PositionReadsComplete : Prop :=
  ∀ (s : State) (b0 b1 b2 b3 b4 b5 b6 : Byte) (src : Endpoint), s.phase = .idle →
    s.port.tsAnswer = some .sent → s.port.trEvent = some (.dgram [b0, b1, b2, b3, b4, b5, b6] src) →
    ∀ p ∈ [(Instr.getPanSteps, 0#3, Frame.mk 0xFF#8 0x01#8 0x00#8 0x51#8 0x00#8 0x00#8 0x52#8),
           (Instr.getTiltSteps, 1#3, Frame.mk 0xFF#8 0x01#8 0x00#8 0x53#8 0x00#8 0x00#8 0x54#8),
           (Instr.getPanMaxSteps, 2#3, Frame.mk 0xFF#8 0x01#8 0x00#8 0x55#8 0x00#8 0x00#8 0x56#8),
           (Instr.getTiltMaxSteps, 3#3, Frame.mk 0xFF#8 0x01#8 0x00#8 0x57#8 0x00#8 0x00#8 0x58#8)],
      ∃ t, ExchangeRuns p.1 s t ∧ t.csel = p.2.1 ∧ t.sent = s.sent ++ [⟨p.2.2, s.ep⟩] ∧
        t.completions = s.completions ++ [.ok (cat16 b4 b5)] ∧ t.result = some (cat16 b4 b5) ∧
        t.rvalid = true ∧ t.status = 0#2 ∧ t.busy = false

/-- R117, R118: the two sets, each with the frame it sends for every value, and the reply's value returned like any
other. -/
def Obligations.PositionSetsComplete : Prop :=
  ∀ (s : State) (val : Value) (b0 b1 b2 b3 b4 b5 b6 : Byte) (src : Endpoint), s.phase = .idle →
    s.port.tsAnswer = some .sent → s.port.trEvent = some (.dgram [b0, b1, b2, b3, b4, b5, b6] src) →
    ∀ p ∈ [(Instr.setPanSteps val, 4#3, 0x71#8, 0x72), (Instr.setTiltSteps val, 5#3, 0x73#8, 0x74)],
      ∃ t cc, ExchangeRuns p.1 s t ∧ t.csel = p.2.1 ∧
        t.sent = s.sent ++ [⟨⟨0xFF#8, 0x01#8, 0x00#8, p.2.2.1, hi8 val, lo8 val, cc⟩, s.ep⟩] ∧
        cc.toNat = (p.2.2.2 + (hi8 val).toNat + (lo8 val).toNat) % 256 ∧
        t.completions = s.completions ++ [.ok (cat16 b4 b5)] ∧ t.result = some (cat16 b4 b5) ∧
        t.rvalid = true ∧ t.status = 0#2 ∧ t.busy = false

/-- R119, R120: the two sensor reads, with the frame each always sends and an unsigned result. -/
def Obligations.SensorReadsComplete : Prop :=
  ∀ (s : State) (b0 b1 b2 b3 b4 b5 b6 : Byte) (src : Endpoint), s.phase = .idle →
    s.port.tsAnswer = some .sent → s.port.trEvent = some (.dgram [b0, b1, b2, b3, b4, b5, b6] src) →
    ∀ p ∈ [(Instr.getTemperature, 6#3, Frame.mk 0xFF#8 0x01#8 0x00#8 0x91#8 0x00#8 0x00#8 0x92#8),
           (Instr.getVoltage, 7#3, Frame.mk 0xFF#8 0x01#8 0x00#8 0x9B#8 0x00#8 0x00#8 0x9C#8)],
      ∃ t, ExchangeRuns p.1 s t ∧ t.csel = p.2.1 ∧ t.sent = s.sent ++ [⟨p.2.2, s.ep⟩] ∧
        (∃ r, t.completions = s.completions ++ [.ok r] ∧ t.result = some r ∧
          r.toNat = b4.toNat * 256 + b5.toNat) ∧
        t.rvalid = true ∧ t.status = 0#2 ∧ t.busy = false

/-- R100: the machine's steps carry out EXCHANGE, however long the transport keeps the block waiting for either answer,
and whatever else is offered meanwhile (other commands on port `HC`, events out of their phase). The three clauses are
the three ways an exchange ends; in each the block is idle again and the rest of the inputs is untouched. -/
def Obligations.StepsCarryOutExchange : Prop :=
  ∀ (s : State) (e a r d : Inputs) (w₁ w₂ rest : List Inputs), s.phase = .idle → s.port.hcValid = true →
    s.port.rst = false → e.rst = false → a.rst = false → r.rst = false → d.rst = false →
    NoReset w₁ → NoReset w₂ → SendUnanswered w₁ → ReceiveUnanswered w₂ →
    (∀ cause, s.future = e :: w₁ ++ a :: rest → a.tsAnswer = some (.fail cause) → ∀ event,
      ∃ t, run (3 + w₁.length) s = .next t ∧ t.moments = (rest.headD Inputs.silent) :: rest.tail ∧
        t.phase = .idle ∧
        t.sent = s.sent ++ [⟨(exchange s.port.csel s.port.val (.fail cause) event).1, s.ep⟩] ∧
        t.completions = s.completions ++ [(exchange s.port.csel s.port.val (.fail cause) event).2]) ∧
    (∀ cause, s.future = e :: w₁ ++ a :: w₂ ++ r :: rest → a.tsAnswer = some .sent →
      r.trEvent = some (.fail cause) →
      ∃ t, run (4 + w₁.length + w₂.length) s = .next t ∧
        t.moments = (rest.headD Inputs.silent) :: rest.tail ∧ t.phase = .idle ∧
        t.sent = s.sent ++ [⟨(exchange s.port.csel s.port.val .sent (.fail cause)).1, s.ep⟩] ∧
        t.completions = s.completions ++ [(exchange s.port.csel s.port.val .sent (.fail cause)).2]) ∧
    (∀ bs src, s.future = e :: w₁ ++ a :: w₂ ++ r :: d :: rest → a.tsAnswer = some .sent →
      r.trEvent = some (.dgram bs src) →
      ∃ t, run (5 + w₁.length + w₂.length) s = .next t ∧
        t.moments = (rest.headD Inputs.silent) :: rest.tail ∧ t.phase = .idle ∧
        t.sent = s.sent ++ [⟨(exchange s.port.csel s.port.val .sent (.dgram bs src)).1, s.ep⟩] ∧
        t.completions = s.completions ++ [(exchange s.port.csel s.port.val .sent (.dgram bs src)).2])

/-- R111: the result of an exchange depends on the delivered datagram's offsets 4 and 5 alone. Two exchanges, of any two
commands from any two idle states, whose replies agree there end with the same `RESULT` and the same record, whoever
sent the replies. -/
def Obligations.ReplyValueAloneDecidesTheResult : Prop :=
  ∀ (i i' : Instr) (s s' t t' : State) (f f' : Frame) (src src' : Endpoint),
    s.phase = .idle → s'.phase = .idle → s.port.tsAnswer = some .sent → s'.port.tsAnswer = some .sent →
    s.port.trEvent = some (.dgram (frameBytes f) src) → s'.port.trEvent = some (.dgram (frameBytes f') src') →
    f.valHi = f'.valHi → f.valLo = f'.valLo → ExchangeRuns i s t → ExchangeRuns i' s' t' →
    t.result = t'.result ∧ t.completions.getLast? = t'.completions.getLast? ∧ t.status = t'.status

/-! ## Waiting, resetting, transitions -/

/-- R24: every transition of `PHASE`, with the completion each delivers, and no other. That a reset wins over whatever else
is enabled at the same moment is the model's choice, log entry 2 (DESIGN CHOICE): the spec gives no order inside a
moment. -/
def Obligations.PhaseTransitions : Prop :=
  ∀ s t : State, step s = .next t →
    (t.phase, t.completions) =
      if s.port.rst then (.idle, s.completions)
      else match s.phase with
        | .idle => (if s.port.hcValid then .encode else .idle, s.completions)
        | .encode => (.send, s.completions)
        | .send =>
          match s.port.tsAnswer with
          | none => (.send, s.completions)
          | some .sent => (.await, s.completions)
          | some (.fail cause) => (.idle, s.completions ++ [.transportError .send cause])
        | .await =>
          match s.port.trEvent with
          | none => (.await, s.completions)
          | some (.dgram _ _) => (.decode, s.completions)
          | some (.fail cause) => (.idle, s.completions ++ [.transportError .receive cause])
        | .decode =>
          (.idle, s.completions ++
            [if s.rxlen = 7 then .ok (cat16 s.rxf.valHi s.rxf.valLo) else .malformedFrame])

/-- No state stops the machine: every step answers a next state (R109: a missing answer is a wait, not a fault). -/
def Obligations.NoStateStopsTheMachine : Prop := ∀ s : State, ∃ t, step s = .next t

/-- An idle block to which no command is presented waits: only the moment passes (log entries 2 and 13). -/
def Obligations.IdleBlockWaits : Prop :=
  ∀ s : State, s.port.rst = false → s.phase = .idle → s.port.hcValid = false → step s = .next (nextMoment s)

/-- R109, R177: unanswered, the block waits for ever, in `AWAIT` for a reply and in `SEND` for the send's answer. For
every number of steps it is busy in the same phase and has delivered and presented nothing; only the
moments pass (log entries 2 and 13). -/
def Obligations.UnansweredBlockWaitsForEver : Prop :=
  ∀ s : State, NoReset s.moments →
    (s.phase = .await ∧ ReceiveUnanswered s.moments ∨ s.phase = .send ∧ SendUnanswered s.moments) →
    ∀ k, ∃ t, run k s = .next t ∧ t = { s with port := t.port, future := t.future } ∧ t.busy = true

/-- R170: reset, from any phase. What the registers it leaves unspecified hold is not said. That nothing is sent or
delivered at that moment even when another step is enabled rests on the reset winning, the model's choice, log entry 2
(DESIGN CHOICE). -/
def Obligations.ResetFromAnyPhase : Prop :=
  ∀ s : State, s.port.rst = true → ∃ t, step s = .next t ∧ t.phase = .idle ∧ t.busy = false ∧
    t.rvalid = false ∧ t.status = 0#2 ∧ t.sent = s.sent ∧ t.completions = s.completions ∧ t.ep = s.ep

/-- R41: the reset values the spec gives. -/
def Obligations.ResetValues : Prop :=
  State.reset.phase = .idle ∧ State.reset.busy = false ∧ State.reset.rvalid = false ∧ State.reset.status = 0#2

/-- R35, R101: while busy, what the host presents on port `HC` changes nothing: the step is the same. -/
def Obligations.BusyBlockIgnoresTheCommandPort : Prop :=
  ∀ (s : State) (valid : Bool) (c : BitVec 3) (v : Value), s.busy = true →
    step { s with port := { s.port with hcValid := valid, csel := c, val := v } } = step s

/-- R156: an event of the transport offered in another phase is not taken: the step is the same without it. -/
def Obligations.EventsAreTakenInTheirPhaseOnly : Prop :=
  (∀ (s : State) (answer : Option SendAnswer), s.phase ≠ .send →
    step { s with port := { s.port with tsAnswer := answer } } = step s) ∧
  (∀ (s : State) (event : Option ReceiveEvent), s.phase ≠ .await →
    step { s with port := { s.port with trEvent := event } } = step s)

/-- R111, R155: in `AWAIT` the sender of the datagram changes nothing. -/
def Obligations.SenderIsIgnored : Prop :=
  ∀ (s : State) (bs : List Byte) (src src' : Endpoint),
    step { s with port := { s.port with trEvent := some (.dgram bs src) } } =
    step { s with port := { s.port with trEvent := some (.dgram bs src') } }

/-! ## Invariants and whole-machine rules -/

/-- The invariant holds right after reset. -/
def Obligations.ResetIsGood : Prop := State.reset.Inv

/-- Every step keeps the invariant: `RESULT` and `CAUSE` hold values exactly as `RVALID` and `STATUS` say, no result is
valid while busy, a request that is out is the one the command in flight selects, every datagram presented was a request
of R70 addressed at `EP`, and there are never more completions and exchanges in flight than datagrams. -/
def Obligations.StepKeepsTheInvariant : Prop :=
  ∀ s t : State, s.Inv → step s = .next t → t.Inv

/-- R112: without a reset, each step keeps the balance of datagrams presented against completions delivered, with one
datagram for the exchange whose request is out. -/
def Obligations.OneDatagramPerCompletion : Prop :=
  ∀ s t : State, s.port.rst = false → step s = .next t →
    t.sent.length + s.completions.length + (if s.requestOut then 1 else 0) =
      s.sent.length + t.completions.length + (if t.requestOut then 1 else 0)

/-- R36, R28: when a record is delivered, it is the one that `STATUS`, `CAUSE` and `RESULT` spell. -/
def Obligations.RecordIsTheRegistersView : Prop :=
  ∀ (s t : State) (c : Completion), step s = .next t → t.completions = s.completions ++ [c] → t.record = some c

/-- In a good state the request that is out names, to a reader of frames, the command in flight (R70). -/
def Obligations.RequestOutNamesTheCommand : Prop :=
  ∀ s : State, s.Inv → s.requestOut → decode (frameBytes s.txf) = .ok s.inFlight

/-- R31, R70: along every run the Endpoint stays, what was presented and delivered stays, and every datagram that is
added is a request of this block addressed at that Endpoint. -/
def Obligations.RunsSendRequestsToTheEndpoint : Prop :=
  ∀ (k : Nat) (s t : State), run k s = .next t →
    t.ep = s.ep ∧ s.completions <+: t.completions ∧
    ∃ ds, t.sent = s.sent ++ ds ∧ ∀ d ∈ ds, d.ep = s.ep ∧ ∃ i, frameBytes d.frame = encode i

/-- R15: no register makes an earlier exchange visible in a later one. Two idle blocks with the same Endpoint and the
same inputs from now on, whatever their registers hold, present the same datagrams and deliver the same records, for
every number of steps, resets included. That the inputs are a list of moments is the model's choice, log entry 2 (DESIGN
CHOICE). -/
def Obligations.EarlierExchangesAreInvisible : Prop :=
  ∀ s₁ s₂ : State, s₁.phase = .idle → s₂.phase = .idle → s₁.ep = s₂.ep → s₁.moments = s₂.moments →
    ∀ k, ∃ t₁ t₂, run k s₁ = .next t₁ ∧ run k s₂ = .next t₂ ∧ SameSeen s₁ s₂ t₁ t₂

/-! ## The host layer -/

/-- R138: the temperature is read by `get-temperature`, and is the result in two's complement, the low 16 bits unchanged
(PRESUMED, log entry 14). -/
def Obligations.TemperatureIsSigned : Prop :=
  ∀ (c : Calibration) (v : Value), commandFor udp c .getTemperature = .ok .getTemperature ∧
    finish udp c .getTemperature (.ok v) = .ok (.signed v.toInt)

/-- R139: the voltage is the unsigned result divided by 100, exactly. The source's example is 1230, which is 12.30. -/
def Obligations.VoltageIsHundredths : Prop :=
  ∀ (c : Calibration) (v : Value), commandFor udp c .getVoltage = .ok .getVoltage ∧
    ∃ u : Rat, finish udp c .getVoltage (.ok v) = .ok (.volts u) ∧ u * 100 = v.toNat

/-- R129, R142, R143, R146: the steps a degree setter sends under either kind, the floor of the product with the literal
moduli 360 and 135, and the fault for a product over 0xFFFF. A ratio under the `integer` kind has the denominator 1, where
the floor changes nothing. What is held against 0xFFFF is the product before its floor (log entry 18). A degree has any
size (log entry 14). -/
def Obligations.DegreeSettersSendSteps : Prop :=
  ∀ (pan tilt : Ratio) (deg : Nat), pan.den ≠ 0 → tilt.den ≠ 0 →
    (((deg % 360 : Nat) : Rat) * pan.value ≤ 0xFFFF → ∃ v : Value,
      v.toNat = ⌊((deg % 360 : Nat) : Rat) * pan.value⌋₊ ∧ (pan.den = 1 → v.toNat = deg % 360 * pan.num) ∧
      commandFor udp ⟨pan, tilt⟩ (.setPanDegrees deg) = .ok (.setPanSteps v)) ∧
    (((deg % 135 : Nat) : Rat) * tilt.value ≤ 0xFFFF → ∃ v : Value,
      v.toNat = ⌊((deg % 135 : Nat) : Rat) * tilt.value⌋₊ ∧ (tilt.den = 1 → v.toNat = deg % 135 * tilt.num) ∧
      commandFor udp ⟨pan, tilt⟩ (.setTiltDegrees deg) = .ok (.setTiltSteps v)) ∧
    (0xFFFF < ((deg % 360 : Nat) : Rat) * pan.value →
      commandFor udp ⟨pan, tilt⟩ (.setPanDegrees deg) = .error .stepsOverflow) ∧
    (0xFFFF < ((deg % 135 : Nat) : Rat) * tilt.value →
      commandFor udp ⟨pan, tilt⟩ (.setTiltDegrees deg) = .error .stepsOverflow)

/-- R129, R130, R140, R141: the degree reads issue the step reads and floor the exact quotient of steps and ratio, under
either kind, and fault on a zero ratio. A ratio under the `integer` kind has the denominator 1, where the quotient is that
of natural numbers. -/
def Obligations.DegreeReadsTruncate : Prop :=
  ∀ (pan tilt : Ratio) (v : Value), pan.den ≠ 0 → tilt.den ≠ 0 →
    (commandFor udp ⟨pan, tilt⟩ .getPanDegrees = .ok .getPanSteps ∧
      commandFor udp ⟨pan, tilt⟩ .getTiltDegrees = .ok .getTiltSteps) ∧
    (pan.value ≠ 0 → ∃ g, finish udp ⟨pan, tilt⟩ .getPanDegrees (.ok v) = .ok (.degrees g) ∧
      g = ⌊(v.toNat : Rat) / pan.value⌋₊ ∧ (pan.den = 1 → g = v.toNat / pan.num)) ∧
    (tilt.value ≠ 0 → ∃ g, finish udp ⟨pan, tilt⟩ .getTiltDegrees (.ok v) = .ok (.degrees g) ∧
      g = ⌊(v.toNat : Rat) / tilt.value⌋₊ ∧ (tilt.den = 1 → g = v.toNat / tilt.num)) ∧
    (pan.value = 0 → finish udp ⟨pan, tilt⟩ .getPanDegrees (.ok v) = .error .divisionByZero) ∧
    (tilt.value = 0 → finish udp ⟨pan, tilt⟩ .getTiltDegrees (.ok v) = .error .divisionByZero)

/-- R125 to R128, R130: construction configures `EP`, runs the two exchanges on the block in order, and ends as a Device
that holds that block and the quotients of maximum steps and maximum degrees, truncated under `integer` and exact under
`real`. A zero maximum-degrees input faults (R130). That it faults only after both exchanges, with the block as the
second left it, is the model's choice, log entry 14 (DESIGN CHOICE), that resolving always gives an Endpoint is log
entry 17, and that the maximum degrees are natural numbers is log entry 19. -/
def Obligations.CalibrationRatios : Prop :=
  ∀ (p : Params) (s s₁ s₂ : State) (pan tilt : Value),
    issue .getPanMaxSteps { s with ep := Config.resolve p.host p.port } = some (s₁, .ok pan) →
    issue .getTiltMaxSteps s₁ = some (s₂, .ok tilt) →
    (p.maxPanDegrees ≠ 0 → p.maxTiltDegrees ≠ 0 → p.kind = .integer →
      construct p s = some (.device
        { block := s₂, panRatio := ⟨pan.toNat / p.maxPanDegrees, 1⟩,
          tiltRatio := ⟨tilt.toNat / p.maxTiltDegrees, 1⟩ })) ∧
    (p.maxPanDegrees ≠ 0 → p.maxTiltDegrees ≠ 0 → p.kind = .real →
      construct p s = some (.device
        { block := s₂, panRatio := ⟨pan.toNat, p.maxPanDegrees⟩, tiltRatio := ⟨tilt.toNat, p.maxTiltDegrees⟩ })) ∧
    (p.maxPanDegrees = 0 ∨ p.maxTiltDegrees = 0 → construct p s = some (.failed s₂ .divisionByZero))

/-- R145, U14: reading back the degrees just set is exact under the `integer` kind, and never more than what was set
under the `real` kind, for every ratio and every degree whose product with it is at most 0xFFFF. -/
def Obligations.DegreeRoundTrip : Prop :=
  ∀ (r : Ratio) (tilt : Ratio) (deg : Nat) (v : Value), r.num ≠ 0 → r.den ≠ 0 →
    commandFor udp ⟨r, tilt⟩ (.setPanDegrees deg) = .ok (.setPanSteps v) →
    ∃ g, finish udp ⟨r, tilt⟩ .getPanDegrees (.ok v) = .ok (.degrees g) ∧ g ≤ deg % 360 ∧
      (r.den = 1 → g = deg % 360)

/-- R127, R131, R136, R137, R142, R143, R148: on every variant an error completion becomes the failure of every operation, unchanged.
At construction the first error surfaces at once: after a failed first exchange there is no second. That the block is then
as the failed exchange left it is the model's choice, log entry 14 (DESIGN CHOICE): R127 says the source does not tell
what becomes of the half-built device. Each of the four setters drops whatever acknowledgment comes. -/
def Obligations.HostSurfacesErrors : Prop :=
  (∀ (v : Interface) (c : Calibration) (op : HostOp),
    (∀ dir cause, finish v c op (.transportError dir cause) = .error (.transportError dir cause)) ∧
    finish v c op .malformedFrame = .error .malformedFrame) ∧
  (∀ (c : Calibration) (steps v : Value) (deg : Nat),
    finish udp c (.setPanSteps steps) (.ok v) = .ok .done ∧
    finish udp c (.setTiltSteps steps) (.ok v) = .ok .done ∧
    finish udp c (.setPanDegrees deg) (.ok v) = .ok .done ∧
    finish udp c (.setTiltDegrees deg) (.ok v) = .ok .done) ∧
  (∀ (p : Params) (s s₁ : State) (r : Completion) (e : HostFault),
    issue .getPanMaxSteps (configure p s) = some (s₁, r) → completionValue r = .error e →
    construct p s = some (.failed s₁ e)) ∧
  (∀ (p : Params) (s s₁ s₂ : State) (pan : Value) (r : Completion) (e : HostFault),
    issue .getPanMaxSteps (configure p s) = some (s₁, .ok pan) → issue .getTiltMaxSteps s₁ = some (s₂, r) →
    completionValue r = .error e → construct p s = some (.failed s₂ e))

/-- R123 to R125, R131: an operation of a Device, on any variant. One that fails before its exchange leaves the Device as
it was, so nothing is sent, and an operation a variant does not override is one of those. One that ends has run exactly
one exchange on the Device's block: the command's row of the opcode map sent once to its `EP`, one record delivered, the
answer made from that record, the ratios and `EP` unchanged. And when the transport answers each wait at its first
moment, with whatever it answers, the operation ends, with EXCHANGE's record. R132 to R141: which command the UDP-backed
variant issues for each operation, with the steps given as the value of the two step setters, and that the four step reads
return the result verbatim (the commands of the degree setters are in `DegreeSettersSendSteps`). -/
def Obligations.HostCallSendsItsCommand : Prop :=
  (∀ c : Calibration,
    (∀ p ∈ [(HostOp.getPanSteps, Instr.getPanSteps), (.getTiltSteps, .getTiltSteps),
            (.getPanMaxSteps, .getPanMaxSteps), (.getTiltMaxSteps, .getTiltMaxSteps),
            (.getTemperature, .getTemperature), (.getVoltage, .getVoltage),
            (.getPanDegrees, .getPanSteps), (.getTiltDegrees, .getTiltSteps)],
      commandFor udp c p.1 = .ok p.2) ∧
    (∀ steps : Value, commandFor udp c (.setPanSteps steps) = .ok (.setPanSteps steps) ∧
      commandFor udp c (.setTiltSteps steps) = .ok (.setTiltSteps steps)) ∧
    (∀ op ∈ [HostOp.getPanSteps, .getTiltSteps, .getPanMaxSteps, .getTiltMaxSteps], ∀ v : Value,
      finish udp c op (.ok v) = .ok (.steps v))) ∧
  (∀ (v : Interface) (op : HostOp) (d : Device),
    (v.method op = notSupported → operate v op d = some (d, .error .notSupported)) ∧
    (∀ e, commandFor v d.toCalibration op = .error e → operate v op d = some (d, .error e)) ∧
    (∀ i d' x, commandFor v d.toCalibration op = .ok i → operate v op d = some (d', x) →
      d'.toCalibration = d.toCalibration ∧ d'.block.ep = d.block.ep ∧ d'.block.phase = .idle ∧
      ∃ f r, d'.block.sent = d.block.sent ++ [⟨f, d.block.ep⟩] ∧ frameBytes f = encode i ∧
        d'.block.completions = d.block.completions ++ [r] ∧ x = finish v d.toCalibration op r) ∧
    (∀ i m a r x rest answer event, commandFor v d.toCalibration op = .ok i → d.block.phase = .idle →
      d.block.port.rst = false → d.block.future = m :: a :: r :: x :: rest → NoReset [m, a, r, x] →
      a.tsAnswer = some answer → r.trEvent = some event →
      ∃ d', operate v op d = some (d',
        finish v d.toCalibration op (exchange (selectorOf i) ((operandOf i).getD 0x0000#16) answer event).2)))
end

