-- ==== Sys2Proof/Laws/Codec.lean ====
section
/-! SUPPORT. Lemmas about the codec, the catalogue and the operand forms. -/

namespace Sys2Proof.Machine

@[simp] theorem frameOfBytes_frameBytes (f : Frame) : frameOfBytes (frameBytes f) = some f := rfl

theorem frameOfBytes_eq_some {bs : List Byte} {f : Frame} (h : frameOfBytes bs = some f) : bs = frameBytes f := by
  unfold frameOfBytes at h
  split at h
  · cases h; rfl
  · cases h

theorem frameOfBytes_isSome (bs : List Byte) : (frameOfBytes bs).isSome = true ↔ bs.length = 7 := by
  constructor
  · intro h
    obtain ⟨f, hf⟩ := Option.isSome_iff_exists.mp h
    rw [frameOfBytes_eq_some hf]; rfl
  · intro h
    match bs, h with
    | [_, _, _, _, _, _, _], _ => rfl

theorem frameOfBytes_eq_none (bs : List Byte) : frameOfBytes bs = none ↔ bs.length ≠ 7 := by
  rw [← not_iff_not, not_not, ← frameOfBytes_isSome, Option.isSome_iff_ne_none]

theorem frameBytes_injective {f g : Frame} (h : frameBytes f = frameBytes g) : f = g := by
  have := congrArg frameOfBytes h
  simpa using this

@[simp] theorem frameBytes_length (f : Frame) : (frameBytes f).length = 7 := rfl

theorem hi8_eq_extract (v : Value) : hi8 v = v.extractLsb' 8 8 := by
  unfold hi8
  ext i hi
  interval_cases i <;> simp

theorem lo8_eq_extract (v : Value) : lo8 v = v.extractLsb' 0 8 := by
  unfold lo8
  ext i hi
  interval_cases i <;> simp

theorem hi8_toNat (v : Value) : (hi8 v).toNat = v.toNat / 256 := by
  rw [hi8_eq_extract, BitVec.extractLsb'_toNat, Nat.shiftRight_eq_div_pow]
  have := v.isLt
  omega

theorem lo8_toNat (v : Value) : (lo8 v).toNat = v.toNat % 256 := by
  rw [lo8_eq_extract, BitVec.extractLsb'_toNat]
  simp

theorem cat16_toNat (h l : Byte) : (cat16 h l).toNat = h.toNat * 256 + l.toNat := by
  have hh := h.isLt
  have hl := l.isLt
  have hs : (h.setWidth 16 <<< 8).toNat = h.toNat <<< 8 := by
    rw [BitVec.toNat_shiftLeft, BitVec.toNat_setWidth, Nat.mod_eq_of_lt (by omega), Nat.shiftLeft_eq]
    omega
  rw [cat16, BitVec.toNat_or, hs, BitVec.toNat_setWidth, Nat.mod_eq_of_lt (by omega : l.toNat < 2 ^ 16),
    ← Nat.shiftLeft_add_eq_or_of_lt hl, Nat.shiftLeft_eq]

theorem checksum_toNat_step (a b : Byte) : (accAdd a b).toNat = (a.toNat + b.toNat) % 256 := by
  simp [accAdd, BitVec.toNat_add]

theorem encodeFrame_cksum (op : Byte) (v : Value) : (encodeFrame op v).cksum = frameChecksum (encodeFrame op v) := rfl

theorem requestFrame_cksum (c : BitVec 3) (v : Value) : (requestFrame c v).cksum = frameChecksum (requestFrame c v) := rfl

/-- A selector and its command name each other. -/
@[simp] theorem commandOf_selectorOf (i : Instr) (v : Value) : commandOf (selectorOf i) ((operandOf i).getD v) = i := by
  cases i <;> rfl

end Sys2Proof.Machine
end

