-- ==== Sys2Proof/Laws/State.lean ====
section
/-! SUPPORT. What every state update leaves in every field, each fact true by `rfl`, so that no later proof unfolds a
record update. `simp` reads a conjunction as one rewrite rule per field. -/

namespace Sys2Proof.Machine

@[simp] theorem invalidateResult_fields (s : State) :
    (invalidateResult s).phase = s.phase ∧
    (invalidateResult s).idx = s.idx ∧
    (invalidateResult s).val = s.val ∧
    (invalidateResult s).txf = s.txf ∧
    (invalidateResult s).acc = s.acc ∧
    (invalidateResult s).rxf = s.rxf ∧
    (invalidateResult s).rxlen = s.rxlen ∧
    (invalidateResult s).result = none ∧
    (invalidateResult s).rvalid = false ∧
    (invalidateResult s).csel = s.csel ∧
    (invalidateResult s).status = s.status ∧
    (invalidateResult s).cause = s.cause ∧
    (invalidateResult s).ep = s.ep ∧
    (invalidateResult s).port = s.port ∧
    (invalidateResult s).future = s.future ∧
    (invalidateResult s).sent = s.sent ∧
    (invalidateResult s).completions = s.completions ∧
    (invalidateResult s).draws = s.draws :=
  ⟨rfl, rfl, rfl, rfl, rfl, rfl, rfl, rfl, rfl, rfl, rfl, rfl, rfl, rfl, rfl, rfl, rfl, rfl⟩

@[simp] theorem validateResult_fields (v : Value) (s : State) :
    (validateResult v s).phase = s.phase ∧
    (validateResult v s).idx = s.idx ∧
    (validateResult v s).val = s.val ∧
    (validateResult v s).txf = s.txf ∧
    (validateResult v s).acc = s.acc ∧
    (validateResult v s).rxf = s.rxf ∧
    (validateResult v s).rxlen = s.rxlen ∧
    (validateResult v s).result = some v ∧
    (validateResult v s).rvalid = true ∧
    (validateResult v s).csel = s.csel ∧
    (validateResult v s).status = s.status ∧
    (validateResult v s).cause = s.cause ∧
    (validateResult v s).ep = s.ep ∧
    (validateResult v s).port = s.port ∧
    (validateResult v s).future = s.future ∧
    (validateResult v s).sent = s.sent ∧
    (validateResult v s).completions = s.completions ∧
    (validateResult v s).draws = s.draws :=
  ⟨rfl, rfl, rfl, rfl, rfl, rfl, rfl, rfl, rfl, rfl, rfl, rfl, rfl, rfl, rfl, rfl, rfl, rfl⟩

@[simp] theorem setOutcome_fields (c : BitVec 2) (a : Option IoCause) (s : State) :
    (setOutcome c a s).phase = s.phase ∧
    (setOutcome c a s).idx = s.idx ∧
    (setOutcome c a s).val = s.val ∧
    (setOutcome c a s).txf = s.txf ∧
    (setOutcome c a s).acc = s.acc ∧
    (setOutcome c a s).rxf = s.rxf ∧
    (setOutcome c a s).rxlen = s.rxlen ∧
    (setOutcome c a s).result = s.result ∧
    (setOutcome c a s).rvalid = s.rvalid ∧
    (setOutcome c a s).csel = s.csel ∧
    (setOutcome c a s).status = c ∧
    (setOutcome c a s).cause = a ∧
    (setOutcome c a s).ep = s.ep ∧
    (setOutcome c a s).port = s.port ∧
    (setOutcome c a s).future = s.future ∧
    (setOutcome c a s).sent = s.sent ∧
    (setOutcome c a s).completions = s.completions ∧
    (setOutcome c a s).draws = s.draws :=
  ⟨rfl, rfl, rfl, rfl, rfl, rfl, rfl, rfl, rfl, rfl, rfl, rfl, rfl, rfl, rfl, rfl, rfl, rfl⟩

@[simp] theorem present_fields (s : State) :
    (present s).phase = s.phase ∧
    (present s).idx = s.idx ∧
    (present s).val = s.val ∧
    (present s).txf = s.txf ∧
    (present s).acc = s.acc ∧
    (present s).rxf = s.rxf ∧
    (present s).rxlen = s.rxlen ∧
    (present s).result = s.result ∧
    (present s).rvalid = s.rvalid ∧
    (present s).csel = s.csel ∧
    (present s).status = s.status ∧
    (present s).cause = s.cause ∧
    (present s).ep = s.ep ∧
    (present s).port = s.port ∧
    (present s).future = s.future ∧
    (present s).sent = s.sent ++ [⟨s.txf, s.ep⟩] ∧
    (present s).completions = s.completions ∧
    (present s).draws = s.draws :=
  ⟨rfl, rfl, rfl, rfl, rfl, rfl, rfl, rfl, rfl, rfl, rfl, rfl, rfl, rfl, rfl, rfl, rfl, rfl⟩

@[simp] theorem complete_fields (r : Completion) (s : State) :
    (complete r s).phase = .idle ∧
    (complete r s).idx = s.idx ∧
    (complete r s).val = s.val ∧
    (complete r s).txf = s.txf ∧
    (complete r s).acc = s.acc ∧
    (complete r s).rxf = s.rxf ∧
    (complete r s).rxlen = s.rxlen ∧
    (complete r s).result = s.result ∧
    (complete r s).rvalid = s.rvalid ∧
    (complete r s).csel = s.csel ∧
    (complete r s).status = s.status ∧
    (complete r s).cause = s.cause ∧
    (complete r s).ep = s.ep ∧
    (complete r s).port = s.port ∧
    (complete r s).future = s.future ∧
    (complete r s).sent = s.sent ∧
    (complete r s).completions = s.completions ++ [r] ∧
    (complete r s).draws = s.draws :=
  ⟨rfl, rfl, rfl, rfl, rfl, rfl, rfl, rfl, rfl, rfl, rfl, rfl, rfl, rfl, rfl, rfl, rfl, rfl⟩

@[simp] theorem raise_fields (e : BlockError) (s : State) :
    (raise e s).phase = .idle ∧
    (raise e s).idx = s.idx ∧
    (raise e s).val = s.val ∧
    (raise e s).txf = s.txf ∧
    (raise e s).acc = s.acc ∧
    (raise e s).rxf = s.rxf ∧
    (raise e s).rxlen = s.rxlen ∧
    (raise e s).result = s.result ∧
    (raise e s).rvalid = s.rvalid ∧
    (raise e s).csel = s.csel ∧
    (raise e s).status = errorStatus e ∧
    (raise e s).cause = errorCause e ∧
    (raise e s).ep = s.ep ∧
    (raise e s).port = s.port ∧
    (raise e s).future = s.future ∧
    (raise e s).sent = s.sent ∧
    (raise e s).completions = s.completions ++ [errorRecord e] ∧
    (raise e s).draws = s.draws :=
  ⟨rfl, rfl, rfl, rfl, rfl, rfl, rfl, rfl, rfl, rfl, rfl, rfl, rfl, rfl, rfl, rfl, rfl, rfl⟩

@[simp] theorem nextMoment_fields (s : State) :
    (nextMoment s).phase = s.phase ∧
    (nextMoment s).idx = s.idx ∧
    (nextMoment s).val = s.val ∧
    (nextMoment s).txf = s.txf ∧
    (nextMoment s).acc = s.acc ∧
    (nextMoment s).rxf = s.rxf ∧
    (nextMoment s).rxlen = s.rxlen ∧
    (nextMoment s).result = s.result ∧
    (nextMoment s).rvalid = s.rvalid ∧
    (nextMoment s).csel = s.csel ∧
    (nextMoment s).status = s.status ∧
    (nextMoment s).cause = s.cause ∧
    (nextMoment s).ep = s.ep ∧
    (nextMoment s).port = s.future.headD Inputs.silent ∧
    (nextMoment s).future = s.future.tail ∧
    (nextMoment s).sent = s.sent ∧
    (nextMoment s).completions = s.completions ∧
    (nextMoment s).draws = s.draws :=
  ⟨rfl, rfl, rfl, rfl, rfl, rfl, rfl, rfl, rfl, rfl, rfl, rfl, rfl, rfl, rfl, rfl, rfl, rfl⟩

@[simp] theorem takeReset_fields (s : State) :
    (takeReset s).phase = .idle ∧
    (takeReset s).idx = Config.unspecifiedIdx s.draws ∧
    (takeReset s).val = Config.unspecifiedVal s.draws ∧
    (takeReset s).txf = Config.unspecifiedTxf s.draws ∧
    (takeReset s).acc = Config.unspecifiedAcc s.draws ∧
    (takeReset s).rxf = Config.unspecifiedRxf s.draws ∧
    (takeReset s).rxlen = Config.unspecifiedRxlen s.draws ∧
    (takeReset s).result = none ∧
    (takeReset s).rvalid = false ∧
    (takeReset s).csel = Config.unspecifiedCsel s.draws ∧
    (takeReset s).status = Config.statusOk ∧
    (takeReset s).cause = none ∧
    (takeReset s).ep = s.ep ∧
    (takeReset s).port = s.port ∧
    (takeReset s).future = s.future ∧
    (takeReset s).sent = s.sent ∧
    (takeReset s).completions = s.completions ∧
    (takeReset s).draws = s.draws + 1 :=
  ⟨rfl, rfl, rfl, rfl, rfl, rfl, rfl, rfl, rfl, rfl, rfl, rfl, rfl, rfl, rfl, rfl, rfl, rfl⟩

@[simp] theorem accept_fields (c : BitVec 3) (v : Value) (s : State) :
    (accept c v s).phase = .encode ∧
    (accept c v s).idx = s.idx ∧
    (accept c v s).val = v ∧
    (accept c v s).txf = s.txf ∧
    (accept c v s).acc = s.acc ∧
    (accept c v s).rxf = s.rxf ∧
    (accept c v s).rxlen = s.rxlen ∧
    (accept c v s).result = none ∧
    (accept c v s).rvalid = false ∧
    (accept c v s).csel = c ∧
    (accept c v s).status = s.status ∧
    (accept c v s).cause = s.cause ∧
    (accept c v s).ep = s.ep ∧
    (accept c v s).port = s.port ∧
    (accept c v s).future = s.future ∧
    (accept c v s).sent = s.sent ∧
    (accept c v s).completions = s.completions ∧
    (accept c v s).draws = s.draws :=
  ⟨rfl, rfl, rfl, rfl, rfl, rfl, rfl, rfl, rfl, rfl, rfl, rfl, rfl, rfl, rfl, rfl, rfl, rfl⟩

@[simp] theorem buildAndSend_fields (s : State) :
    (buildAndSend s).phase = .send ∧
    (buildAndSend s).idx = 6 ∧
    (buildAndSend s).val = s.val ∧
    (buildAndSend s).txf = requestFrame s.csel s.val ∧
    (buildAndSend s).acc = frameChecksum (requestFrame s.csel s.val) ∧
    (buildAndSend s).rxf = s.rxf ∧
    (buildAndSend s).rxlen = s.rxlen ∧
    (buildAndSend s).result = s.result ∧
    (buildAndSend s).rvalid = s.rvalid ∧
    (buildAndSend s).csel = s.csel ∧
    (buildAndSend s).status = s.status ∧
    (buildAndSend s).cause = s.cause ∧
    (buildAndSend s).ep = s.ep ∧
    (buildAndSend s).port = s.port ∧
    (buildAndSend s).future = s.future ∧
    (buildAndSend s).sent = s.sent ++ [⟨requestFrame s.csel s.val, s.ep⟩] ∧
    (buildAndSend s).completions = s.completions ∧
    (buildAndSend s).draws = s.draws :=
  ⟨rfl, rfl, rfl, rfl, rfl, rfl, rfl, rfl, rfl, rfl, rfl, rfl, rfl, rfl, rfl, rfl, rfl, rfl⟩

@[simp] theorem receiveDatagram_fields (bs : List Byte) (s : State) :
    (receiveDatagram bs s).phase = .decode ∧
    (receiveDatagram bs s).idx = s.idx ∧
    (receiveDatagram bs s).val = s.val ∧
    (receiveDatagram bs s).txf = s.txf ∧
    (receiveDatagram bs s).acc = s.acc ∧
    (receiveDatagram bs s).rxf = (frameOfBytes bs).getD s.rxf ∧
    (receiveDatagram bs s).rxlen = bs.length ∧
    (receiveDatagram bs s).result = s.result ∧
    (receiveDatagram bs s).rvalid = s.rvalid ∧
    (receiveDatagram bs s).csel = s.csel ∧
    (receiveDatagram bs s).status = s.status ∧
    (receiveDatagram bs s).cause = s.cause ∧
    (receiveDatagram bs s).ep = s.ep ∧
    (receiveDatagram bs s).port = s.port ∧
    (receiveDatagram bs s).future = s.future ∧
    (receiveDatagram bs s).sent = s.sent ∧
    (receiveDatagram bs s).completions = s.completions ∧
    (receiveDatagram bs s).draws = s.draws :=
  ⟨rfl, rfl, rfl, rfl, rfl, rfl, rfl, rfl, rfl, rfl, rfl, rfl, rfl, rfl, rfl, rfl, rfl, rfl⟩

@[simp] theorem completeOk_fields (v : Value) (s : State) :
    (completeOk v s).phase = .idle ∧
    (completeOk v s).idx = s.idx ∧
    (completeOk v s).val = s.val ∧
    (completeOk v s).txf = s.txf ∧
    (completeOk v s).acc = s.acc ∧
    (completeOk v s).rxf = s.rxf ∧
    (completeOk v s).rxlen = s.rxlen ∧
    (completeOk v s).result = some v ∧
    (completeOk v s).rvalid = true ∧
    (completeOk v s).csel = s.csel ∧
    (completeOk v s).status = Config.statusOk ∧
    (completeOk v s).cause = none ∧
    (completeOk v s).ep = s.ep ∧
    (completeOk v s).port = s.port ∧
    (completeOk v s).future = s.future ∧
    (completeOk v s).sent = s.sent ∧
    (completeOk v s).completions = s.completions ++ [.ok v] ∧
    (completeOk v s).draws = s.draws :=
  ⟨rfl, rfl, rfl, rfl, rfl, rfl, rfl, rfl, rfl, rfl, rfl, rfl, rfl, rfl, rfl, rfl, rfl, rfl⟩

end Sys2Proof.Machine
end

