-- ==== Sys2Proof/Laws/Step.lean ====
section
/-! SUPPORT. What executing an instruction and what a step can do, said once. -/

namespace Sys2Proof.Machine

/-- All eight meanings are one shared step: a get-style command takes the port's value lines at accept, a set-style
command its operand. -/
theorem exec_eq (i : Instr) (s : State) : exec i s = exchangeStep i ((operandOf i).getD s.port.val) s := by
  cases i <;> rfl

theorem exec_of_idle (i : Instr) {s : State} (h : s.phase = .idle) :
    exec i s = .next (accept (selectorOf i) ((operandOf i).getD s.port.val) s) := by
  rw [exec_eq, exchangeStep, if_pos h]

theorem exec_of_inFlight {i : Instr} {s : State} (h : s.phase ≠ .idle) (hi : s.inFlight = i) :
    exec i s = .next (advance s) := by
  rw [exec_eq, exchangeStep, if_neg h, if_pos hi]

theorem exec_of_other {i : Instr} {s : State} (h : s.phase ≠ .idle) (hi : s.inFlight ≠ i) : exec i s = .next s := by
  rw [exec_eq, exchangeStep, if_neg h, if_neg hi]

/-- Everything executing an instruction can answer: it is accepted, or its exchange advances, or it is held off. -/
theorem exec_cases {i : Instr} {s t : State} (h : exec i s = .next t) :
    (s.phase = .idle ∧ t = accept (selectorOf i) ((operandOf i).getD s.port.val) s) ∨
    (s.phase ≠ .idle ∧ s.inFlight = i ∧ t = advance s) ∨
    (s.phase ≠ .idle ∧ s.inFlight ≠ i ∧ t = s) := by
  by_cases hp : s.phase = .idle
  · rw [exec_of_idle i hp] at h; cases h; exact .inl ⟨hp, rfl⟩
  · by_cases hi : s.inFlight = i
    · rw [exec_of_inFlight hp hi] at h; cases h; exact .inr (.inl ⟨hp, hi, rfl⟩)
    · rw [exec_of_other hp hi] at h; cases h; exact .inr (.inr ⟨hp, hi, rfl⟩)

theorem advance_encode {s : State} (h : s.phase = .encode) : advance s = buildAndSend s := by simp [advance, h]

theorem advance_send {s : State} (h : s.phase = .send) : advance s = sendAnswer s := by simp [advance, h]

theorem advance_await {s : State} (h : s.phase = .await) : advance s = receive s := by simp [advance, h]

theorem advance_decode {s : State} (h : s.phase = .decode) : advance s = decodeAndComplete s := by simp [advance, h]

/-- The state the block's step leads to at this moment. -/
def blockNext (s : State) : State :=
  if s.port.rst then takeReset s
  else if s.phase = .idle then
    (if s.port.hcValid then accept s.port.csel s.port.val s else s)
  else advance s

theorem accept_commandOf (c : BitVec 3) (v : Value) (s : State) (h : s.phase = .idle) (hc : s.port.csel = c)
    (hv : s.port.val = v) : exec (commandOf c v) s = .next (accept c v s) := by
  rw [exec_of_idle _ h, hv]
  have hsel : selectorOf (commandOf c v) = c := by
    revert c; intro c _; unfold commandOf
    match c with
    | 0#3 => rfl
    | 1#3 => rfl
    | 2#3 => rfl
    | 3#3 => rfl
    | 4#3 => rfl
    | 5#3 => rfl
    | 6#3 => rfl
    | 7#3 => rfl
  have hop : (operandOf (commandOf c v)).getD v = v := by
    unfold commandOf; split <;> rfl
  rw [hsel, hop]

theorem blockStep_eq (s : State) : blockStep s = .next (blockNext s) := by
  unfold blockStep blockNext fetch
  by_cases hr : s.port.rst = true
  · simp [hr]
  · by_cases hp : s.phase = .idle
    · by_cases hv : s.port.hcValid = true
      · simp [hr, hp, hv, accept_commandOf _ _ s hp rfl rfl]
      · simp [hr, hp, hv]
    · simp [hr, hp, exec_of_inFlight hp rfl]

/-- The block's step leaves the later moments alone. -/
theorem blockNext_future (s : State) : (blockNext s).future = s.future := by
  unfold blockNext
  split
  · rfl
  · split
    · split <;> rfl
    · unfold advance
      split
      · rfl
      · rfl
      · unfold sendAnswer; split <;> rfl
      · unfold receive; split <;> rfl
      · unfold decodeAndComplete; split <;> rfl

/-- Everything a step can do. -/
theorem step_eq (s : State) : step s = .next (nextMoment (blockNext s)) := by
  unfold step; rw [blockStep_eq]

theorem step_next_iff {s t : State} : step s = .next t ↔ t = nextMoment (blockNext s) := by
  rw [step_eq]
  constructor
  · intro h; cases h; rfl
  · rintro rfl; rfl

/-- Everything a step can do, guards included: reset, or one of the steps R104 to R110, or a wait. -/
theorem blockNext_cases (s : State) :
    (s.port.rst = true ∧ blockNext s = takeReset s) ∨
    (s.port.rst = false ∧
      ((s.phase = .idle ∧ s.port.hcValid = true ∧ blockNext s = accept s.port.csel s.port.val s) ∨
       (s.phase = .idle ∧ s.port.hcValid = false ∧ blockNext s = s) ∨
       (s.phase = .encode ∧ blockNext s = buildAndSend s) ∨
       (s.phase = .send ∧ s.port.tsAnswer = none ∧ blockNext s = s) ∨
       (s.phase = .send ∧ s.port.tsAnswer = some .sent ∧ blockNext s = { s with phase := .await }) ∨
       (∃ c, s.phase = .send ∧ s.port.tsAnswer = some (.fail c) ∧ blockNext s = raise (.sendFailed c) s) ∨
       (s.phase = .await ∧ s.port.trEvent = none ∧ blockNext s = s) ∨
       (∃ bs src, s.phase = .await ∧ s.port.trEvent = some (.dgram bs src) ∧
         blockNext s = receiveDatagram bs s) ∨
       (∃ c, s.phase = .await ∧ s.port.trEvent = some (.fail c) ∧ blockNext s = raise (.receiveFailed c) s) ∨
       (s.phase = .decode ∧ s.rxlen = 7 ∧ blockNext s = completeOk (frameValue s.rxf) s) ∨
       (s.phase = .decode ∧ s.rxlen ≠ 7 ∧ blockNext s = raise .malformedReply s))) := by
  cases hr : s.port.rst with
  | true => exact .inl ⟨rfl, by simp [blockNext, hr]⟩
  | false =>
    refine .inr ⟨rfl, ?_⟩
    cases h : s.phase with
    | idle => cases hv : s.port.hcValid <;> simp [blockNext, hr, h, hv]
    | encode => simp [blockNext, hr, h, advance_encode h]
    | send =>
      match ht : s.port.tsAnswer with
      | none => simp [blockNext, hr, h, advance_send h, sendAnswer, ht]
      | some .sent => simp [blockNext, hr, h, advance_send h, sendAnswer, ht]
      | some (.fail _) => simp [blockNext, hr, h, advance_send h, sendAnswer, ht]
    | await =>
      match ht : s.port.trEvent with
      | none => simp [blockNext, hr, h, advance_await h, receive, ht]
      | some (.dgram _ _) => simp [blockNext, hr, h, advance_await h, receive, ht]
      | some (.fail _) => simp [blockNext, hr, h, advance_await h, receive, ht]
    | decode => by_cases hl : s.rxlen = 7 <;> simp [blockNext, hr, h, advance_decode h, decodeAndComplete, hl]

end Sys2Proof.Machine
end

