-- ==== Sys2Proof/Laws/Run.lean ====
section
/-! SUPPORT. Runs: `k` steps are `k` applications of one function, and a property that every step keeps holds along every
run. -/

namespace Sys2Proof.Machine

/-- The state one step leads to. -/
def stepNext (s : State) : State := nextMoment (blockNext s)

/-- A step that answers a next state is peeled off a run, for any machine. -/
theorem core_run_succ {M : Host.Core} {k : Nat} {s s' : M.State} (h : M.step s = .next s') :
    M.run (k + 1) s = M.run k s' := by
  rw [Host.Core.run, h]

theorem run_zero (s : State) : run 0 s = .next s := rfl

theorem run_succ (k : Nat) (s : State) : run (k + 1) s = run k (stepNext s) :=
  core_run_succ (step_eq s)

theorem run_add (j k : Nat) (s t : State) (h : run j s = .next t) : run (j + k) s = run k t := by
  induction j generalizing s with
  | zero => rw [run_zero] at h; cases h; rw [Nat.zero_add]
  | succ j ih => rw [run_succ] at h; rw [Nat.succ_add, run_succ, ih _ h]

/-- A property that holds at the start and that every step keeps holds at the end of every run. -/
theorem run_induction {P : State → Prop} (hstep : ∀ s, P s → P (stepNext s)) {k : Nat} {s t : State} (hs : P s)
    (h : run k s = .next t) : P t := by
  induction k generalizing s with
  | zero => rw [run_zero] at h; cases h; exact hs
  | succ k ih => rw [run_succ] at h; exact ih (hstep s hs) h

end Sys2Proof.Machine
end

