-- ==== Sys2Proof/Laws/Host.lean ====
section
/-! SUPPORT. What one exchange of the host with its block can answer: the record it brings with the one datagram sent for
it, or a block that delivers nothing for ever. -/

namespace Sys2Proof.Machine.HostLayer

/-- While the host waits for the record of the command `i` presented to the block `s`: nothing is delivered, and what has
been sent is nothing yet (the command is presented, or in ENCODE) or the one request (it is out). After a reset the block
is idle and nothing is presented, for ever. -/
def Waiting (i : Instr) (s t : State) : Prop :=
  t.ep = s.ep ∧ t.completions = s.completions ∧ (∀ m ∈ t.future, m.hcValid = false) ∧
    ((t.phase = .idle ∧ t.port.hcValid = true ∧ t.port.csel = selectorOf i ∧
        t.port.val = (operandOf i).getD 0x0000#16 ∧ t.sent = s.sent) ∨
      (t.port.hcValid = false ∧
        (t.phase = .idle ∨
          (t.phase = .encode ∧ t.csel = selectorOf i ∧ t.val = (operandOf i).getD 0x0000#16 ∧ t.sent = s.sent) ∨
          (t.phase ≠ .idle ∧ t.phase ≠ .encode ∧
            t.sent = s.sent ++ [⟨requestFrame (selectorOf i) ((operandOf i).getD 0x0000#16), s.ep⟩]))))

/-- What the host has when a record has come: the block is idle, has sent the one request and delivered the one
record. -/
def Answered (i : Instr) (s t : State) (r : Completion) : Prop :=
  t.phase = .idle ∧ t.ep = s.ep ∧
    t.sent = s.sent ++ [⟨requestFrame (selectorOf i) ((operandOf i).getD 0x0000#16), s.ep⟩] ∧
    t.completions = s.completions ++ [r]

theorem waiting_presentCommand (i : Instr) (s : State) (h : s.phase = .idle) : Waiting i s (presentCommand i s) := by
  refine ⟨rfl, rfl, ?_, .inl ⟨h, rfl, rfl, rfl, rfl⟩⟩
  intro m hm
  obtain ⟨m', -, rfl⟩ := List.mem_map.1 hm
  rfl

theorem quiet_headD {l : List Inputs} (h : ∀ m ∈ l, m.hcValid = false) : (l.headD Inputs.silent).hcValid = false := by
  cases l with
  | nil => rfl
  | cons a l => exact h a (List.mem_cons_self ..)

theorem quiet_tail {l : List Inputs} (h : ∀ m ∈ l, m.hcValid = false) : ∀ m ∈ l.tail, m.hcValid = false :=
  fun m hm => h m (List.mem_of_mem_tail hm)

/-- A step while the host waits: it waits on, or its record has come. -/
theorem waiting_step {i : Instr} {s t : State} (h : Waiting i s t) :
    Waiting i s (stepNext t) ∨ ∃ r, Answered i s (stepNext t) r := by
  obtain ⟨hep, hc, hq, hw⟩ := h
  have hq' := quiet_headD hq
  have ht' := quiet_tail hq
  unfold stepNext
  rcases blockNext_cases t with ⟨-, hb⟩ | ⟨-, hb⟩
  · rw [hb]; exact .inl ⟨hep, hc, ht', .inr ⟨hq', .inl rfl⟩⟩
  · rcases hb with ⟨hp, hv, hb⟩ | ⟨hp, hv, hb⟩ | ⟨hp, hb⟩ | ⟨hp, _, hb⟩ | ⟨hp, _, hb⟩ | ⟨c, hp, _, hb⟩ | ⟨hp, _, hb⟩ |
      ⟨bs, src, hp, _, hb⟩ | ⟨c, hp, _, hb⟩ | ⟨hp, _, hb⟩ | ⟨hp, _, hb⟩ <;> rw [hb] <;> simp only [hp] at hw
    · rcases hw with ⟨-, -, h1, h2, h3⟩ | ⟨h1, -⟩
      · exact .inl ⟨hep, hc, ht', .inr ⟨hq', .inr (.inl ⟨rfl, h1, h2, h3⟩)⟩⟩
      · rw [hv] at h1; cases h1
    · exact .inl ⟨hep, hc, ht', .inr ⟨hq', .inl hp⟩⟩
    · obtain ⟨-, h1, h2, h3⟩ : t.port.hcValid = false ∧ t.csel = selectorOf i ∧
          t.val = (operandOf i).getD 0x0000#16 ∧ t.sent = s.sent := by simpa using hw
      refine .inl ⟨hep, hc, ht', .inr ⟨hq', .inr (.inr ⟨by simp [nextMoment, buildAndSend], by
        simp [nextMoment, buildAndSend], ?_⟩)⟩⟩
      show t.sent ++ [⟨requestFrame t.csel t.val, t.ep⟩] = _
      rw [h1, h2, h3, hep]
    all_goals
      obtain ⟨-, h1⟩ : t.port.hcValid = false ∧
          t.sent = s.sent ++ [⟨requestFrame (selectorOf i) ((operandOf i).getD 0x0000#16), s.ep⟩] := by simpa using hw
    · exact .inl ⟨hep, hc, ht', .inr ⟨hq', .inr (.inr ⟨by simp [nextMoment, hp], by simp [nextMoment, hp], h1⟩)⟩⟩
    · exact .inl ⟨hep, hc, ht', .inr ⟨hq', .inr (.inr ⟨by simp [nextMoment], by simp [nextMoment], h1⟩)⟩⟩
    · exact .inr ⟨_, rfl, hep, h1, congrArg (· ++ _) hc⟩
    · exact .inl ⟨hep, hc, ht', .inr ⟨hq', .inr (.inr ⟨by simp [nextMoment, hp], by simp [nextMoment, hp], h1⟩)⟩⟩
    · exact .inl ⟨hep, hc, ht', .inr ⟨hq', .inr (.inr ⟨by simp [nextMoment, receiveDatagram], by
        simp [nextMoment, receiveDatagram], h1⟩)⟩⟩
    · exact .inr ⟨_, rfl, hep, h1, congrArg (· ++ _) hc⟩
    · exact .inr ⟨_, rfl, hep, h1, congrArg (· ++ _) hc⟩
    · exact .inr ⟨_, rfl, hep, h1, congrArg (· ++ _) hc⟩

theorem awaitRecord_succ (n fuel : Nat) (s : State) :
    awaitRecord n (fuel + 1) s =
      match (stepNext s).completions[n]? with
      | some r => some (stepNext s, r)
      | none => awaitRecord n fuel (stepNext s) := by
  show (match step s with | .next t => _ | .fault _ => _ | .refused _ => _) = _
  rw [step_eq]; rfl

theorem awaitRecord_waiting {i : Instr} {s t : State} (h : Waiting i s t) (fuel : Nat) {u : State} {r : Completion}
    (ha : awaitRecord s.completions.length fuel t = some (u, r)) : Answered i s u r := by
  induction fuel generalizing t with
  | zero => cases ha
  | succ fuel ih =>
    rw [awaitRecord_succ] at ha
    rcases waiting_step h with hw | ⟨r', hr⟩
    · rw [hw.2.1] at ha
      simp only [List.getElem?_length] at ha
      exact ih hw ha
    · rw [hr.2.2.2] at ha
      simp only [List.getElem?_concat_length, Option.some.injEq, Prod.mk.injEq] at ha
      obtain ⟨rfl, rfl⟩ := ha
      exact hr

/-- When an exchange of the host ends, the block is idle again, has sent the command's request once, addressed at `EP`,
and has delivered the one record the host takes. -/
theorem issue_some {i : Instr} {s t : State} {r : Completion} (h : issue i s = some (t, r)) : Answered i s t r := by
  unfold issue at h
  split at h
  · rename_i hr
    exact awaitRecord_waiting (waiting_presentCommand i s (by simpa [State.ready, State.busy] using hr)) _ h
  · cases h

/-- A step delivers one record or none. -/
theorem stepNext_completions (s : State) :
    (stepNext s).completions = s.completions ∨ ∃ r, (stepNext s).completions = s.completions ++ [r] := by
  unfold stepNext
  rcases blockNext_cases s with ⟨-, hb⟩ | ⟨-, ⟨_, _, hb⟩ | ⟨_, _, hb⟩ | ⟨_, hb⟩ | ⟨_, _, hb⟩ | ⟨_, _, hb⟩ | ⟨_, _, _, hb⟩ |
    ⟨_, _, hb⟩ | ⟨_, _, _, _, hb⟩ | ⟨_, _, _, hb⟩ | ⟨_, _, hb⟩ | ⟨_, _, hb⟩⟩ <;> rw [hb]
  all_goals first
    | exact .inl rfl
    | exact .inr ⟨_, rfl⟩

/-- A block in DECODE without a reset delivers a record. -/
theorem stepNext_decode {s : State} (hp : s.phase = .decode) (hr : s.port.rst = false) :
    ∃ r, (stepNext s).completions = s.completions ++ [r] := by
  have hb : blockNext s = decodeAndComplete s := by simp [blockNext, hp, hr, advance_decode hp]
  unfold stepNext
  rw [hb]
  unfold decodeAndComplete
  split <;> exact ⟨_, rfl⟩

/-- With nothing offered now or later, a block that is not in DECODE delivers nothing for ever. -/
theorem silent_run {s t : State} {k : Nat} (hi : s.port = Inputs.silent) (hf : s.future = []) (hp : s.phase ≠ .decode)
    (h : run k s = .next t) : t.completions = s.completions := by
  refine (run_induction (P := fun u => u.port = Inputs.silent ∧ u.future = [] ∧ u.phase ≠ .decode ∧
    u.completions = s.completions) ?_ ⟨hi, hf, hp, rfl⟩ h).2.2.2
  rintro u ⟨h1, h2, h3, h4⟩
  have hport : (nextMoment (blockNext u)).port = Inputs.silent ∧ (nextMoment (blockNext u)).future = [] := by
    have : (blockNext u).future = [] := by rw [← h2]; exact blockNext_future u
    simp [nextMoment, this]
  refine ⟨hport.1, hport.2, ?_⟩
  show (blockNext u).phase ≠ .decode ∧ (blockNext u).completions = _
  have hr : u.port.rst = false := by rw [h1]; rfl
  cases hq : u.phase with
  | idle =>
    have : blockNext u = u := by simp [blockNext, hq, h1, Inputs.silent]
    rw [this]; exact ⟨h3, h4⟩
  | encode =>
    have : blockNext u = buildAndSend u := by simp [blockNext, hr, hq, advance_encode hq]
    rw [this]; exact ⟨by simp [buildAndSend], h4⟩
  | send =>
    have : blockNext u = u := by simp [blockNext, hq, advance_send hq, sendAnswer, h1, Inputs.silent]
    rw [this]; exact ⟨h3, h4⟩
  | await =>
    have : blockNext u = u := by simp [blockNext, hq, advance_await hq, receive, h1, Inputs.silent]
    rw [this]; exact ⟨h3, h4⟩
  | decode => exact absurd hq h3

theorem awaitRecord_none {s t : State} {k fuel : Nat} (hfuel : s.future.length + 2 ≤ fuel)
    (h : awaitRecord s.completions.length fuel s = none) (hk : run k s = .next t) : t.completions = s.completions := by
  induction hl : s.future.length generalizing s k fuel with
  | zero =>
    obtain ⟨fuel, rfl⟩ : ∃ f, fuel = f + 2 := ⟨fuel - 2, by omega⟩
    have hf : s.future = [] := List.length_eq_zero_iff.1 hl
    rw [awaitRecord_succ] at h
    rcases stepNext_completions s with hs | ⟨r, hs⟩
    · rw [hs] at h
      simp only [List.getElem?_length] at h
      cases k with
      | zero => rw [run_zero] at hk; cases hk; rfl
      | succ k =>
        rw [run_succ] at hk
        have hn : (stepNext s).future = [] ∧ (stepNext s).port = Inputs.silent := by
          have := blockNext_future s
          rw [hf] at this
          simp [stepNext, nextMoment, this]
        rw [← hs]
        refine silent_run hn.2 hn.1 (fun hd => ?_) hk
        obtain ⟨r, hr⟩ := stepNext_decode hd (by rw [hn.2]; rfl)
        rw [awaitRecord_succ, hr, hs] at h
        simp at h
    · rw [hs] at h; simp at h
  | succ n ih =>
    obtain ⟨fuel, rfl⟩ : ∃ f, fuel = f + 1 := ⟨fuel - 1, by omega⟩
    rw [awaitRecord_succ] at h
    rcases stepNext_completions s with hs | ⟨r, hs⟩
    · rw [hs] at h
      simp only [List.getElem?_length] at h
      cases k with
      | zero => rw [run_zero] at hk; cases hk; rfl
      | succ k =>
        rw [run_succ] at hk
        have hlen : (stepNext s).future.length = n := by
          show (blockNext s).future.tail.length = n
          rw [blockNext_future, List.length_tail, hl]; rfl
        rw [← hs]
        exact ih (fuel := fuel) (by omega) (by rw [hs]; exact h) hk hlen
    · rw [hs] at h; simp at h

/-- When the host's exchange does not end, it never does: along every run the block delivers no record. -/
theorem issue_none {i : Instr} {s t : State} {k : Nat} (hs : s.phase = .idle) (h : issue i s = none)
    (hk : run k (presentCommand i s) = .next t) : t.completions = s.completions := by
  unfold issue at h
  rw [if_pos (by simp [State.ready, State.busy, hs])] at h
  exact awaitRecord_none (s := presentCommand i s) (by simp [presentCommand]) h hk

/-- A product that fits gives steps that fit, so the 16-bit operand is the floored product. -/
theorem stepsOf_le {modulus deg : Nat} {r : Ratio} (h : productFits modulus r deg = true) :
    stepsOf modulus r deg ≤ 0xFFFF := by
  simp only [productFits, decide_eq_true_eq] at h
  exact Nat.div_le_of_le_mul (by rwa [Nat.mul_comm 0xFFFF] at h)

theorem stepsOperand_ok {modulus deg : Nat} {r : Ratio} (h : productFits modulus r deg = true) :
    ∃ v : Value, v.toNat = stepsOf modulus r deg ∧ stepsOperand modulus r deg = .ok v :=
  ⟨BitVec.ofNat 16 (stepsOf modulus r deg),
    (BitVec.toNat_ofNat ..).trans (Nat.mod_eq_of_lt (Nat.lt_succ_of_le (stepsOf_le h))), by simp [stepsOperand, h]⟩

theorem stepsOperand_error {modulus deg : Nat} {r : Ratio} (h : productFits modulus r deg = false) :
    stepsOperand modulus r deg = .error .stepsOverflow := by
  simp [stepsOperand, h]

end Sys2Proof.Machine.HostLayer
end

