-- ==== Sys2Proof/Laws/PerInstr.lean ====
section
/-! SUPPORT. The statements made for every instruction, one lemma per constructor. -/

namespace Sys2Proof.Laws.EncodeHeader

/-- The encoding of an instruction is seven bytes that begin with Sync, Address and Command-1, then an opcode of the
map (`30_encoding.md` R61, R69). -/
def Statement (i : Instr) : Prop :=
  (encode i).length = 7 ∧ (encode i).take 3 = [0xFF#8, 0x01#8, 0x00#8] ∧
    ∃ op ∈ Machine.getOpcodes ++ Machine.setOpcodes, (encode i)[3]? = some op

theorem getPanSteps : Statement .getPanSteps := ⟨rfl, rfl, 0x51#8, by decide, rfl⟩
theorem getTiltSteps : Statement .getTiltSteps := ⟨rfl, rfl, 0x53#8, by decide, rfl⟩
theorem getPanMaxSteps : Statement .getPanMaxSteps := ⟨rfl, rfl, 0x55#8, by decide, rfl⟩
theorem getTiltMaxSteps : Statement .getTiltMaxSteps := ⟨rfl, rfl, 0x57#8, by decide, rfl⟩
theorem setPanSteps (val : Value) : Statement (.setPanSteps val) := ⟨rfl, rfl, 0x71#8, by decide, rfl⟩
theorem setTiltSteps (val : Value) : Statement (.setTiltSteps val) := ⟨rfl, rfl, 0x73#8, by decide, rfl⟩
theorem getTemperature : Statement .getTemperature := ⟨rfl, rfl, 0x91#8, by decide, rfl⟩
theorem getVoltage : Statement .getVoltage := ⟨rfl, rfl, 0x9B#8, by decide, rfl⟩

end Sys2Proof.Laws.EncodeHeader
end

