-- ==== Sys2Proof/Tests/Slice0.lean ====
section
/-! SUPPORT. Tests: ill-formed frames refused, words written out from the spec's encodings, the vectors of
`95_test_vectors.md` one step at a time, and a witness for the hypotheses of each statement. -/

namespace Sys2Proof.Tests

open Sys2Proof.Machine Sys2Proof.Machine.HostLayer

/-! ## Helpers -/

/-- The state an outcome answers, if it answers one. -/
def after (o : Host.Outcome State Fault Refusal) : Option State :=
  match o with
  | .next t => some t
  | .fault _ => none
  | .refused _ => none

/-- A block in a phase with a command in flight. -/
def at' (p : Phase) (c : BitVec 3) (v : Value) : State := { State.reset with phase := p, csel := c, val := v }

/-- A moment at which nothing happens but what the arguments say. -/
def moment (answer : Option SendAnswer) (event : Option ReceiveEvent) : Inputs :=
  { Inputs.silent with tsAnswer := answer, trEvent := event }

/-- A command on port `HC`. -/
def command (c : BitVec 3) (v : Value) : Inputs := { Inputs.silent with hcValid := true, csel := c, val := v }

/-- The frame of the last datagram an outcome has presented. -/
def lastFrame (o : Host.Outcome State Fault Refusal) : Option (List Byte) :=
  (after o).bind fun t => t.sent.getLast?.map fun d => frameBytes d.frame

/-- The last record an outcome has delivered. -/
def lastRecord (o : Host.Outcome State Fault Refusal) : Option Completion :=
  (after o).bind fun t => t.completions.getLast?

/-- A block in DECODE that has received a frame. -/
def received (c : BitVec 3) (f : Frame) : State := { at' .decode c 0#16 with rxlen := 7, rxf := f }

/-! ## Well-formedness: one ill-formed frame for each check of R70 -/

theorem test_wf_request : Frame.isRequest ⟨0xFF#8, 0x01#8, 0x00#8, 0x51#8, 0x00#8, 0x00#8, 0x52#8⟩ = true := by decide
theorem test_wf_sync : Frame.isRequest ⟨0xFE#8, 0x01#8, 0x00#8, 0x51#8, 0x00#8, 0x00#8, 0x52#8⟩ = false := by decide
theorem test_wf_address : Frame.isRequest ⟨0xFF#8, 0x02#8, 0x00#8, 0x51#8, 0x00#8, 0x00#8, 0x53#8⟩ = false := by decide
theorem test_wf_command1 : Frame.isRequest ⟨0xFF#8, 0x01#8, 0x01#8, 0x51#8, 0x00#8, 0x00#8, 0x53#8⟩ = false := by decide
theorem test_wf_opcode : Frame.isRequest ⟨0xFF#8, 0x01#8, 0x00#8, 0x61#8, 0x00#8, 0x00#8, 0x62#8⟩ = false := by decide
theorem test_wf_checksum : Frame.isRequest ⟨0xFF#8, 0x01#8, 0x00#8, 0x71#8, 0x00#8, 0x00#8, 0x00#8⟩ = false := by decide
theorem test_wf_getValue : Frame.isRequest ⟨0xFF#8, 0x01#8, 0x00#8, 0x51#8, 0x00#8, 0x01#8, 0x53#8⟩ = false := by decide
theorem test_wf_instr : (Instr.setPanSteps 0xFFFF#16).wellFormed = true := by decide

/-! ## Decoding: words written out from R69 and R77 -/

theorem test_decode_getPanSteps : decodeTableWord 56 0xFF010051000052 = some .getPanSteps := by decide
theorem test_decode_getTiltSteps : decodeTableWord 56 0xFF010053000054 = some .getTiltSteps := by decide
theorem test_decode_getPanMaxSteps : decodeTableWord 56 0xFF010055000056 = some .getPanMaxSteps := by decide
theorem test_decode_getTiltMaxSteps : decodeTableWord 56 0xFF010057000058 = some .getTiltMaxSteps := by decide
theorem test_decode_setPanSteps : decodeTableWord 56 0xFF0100711234B8 = some (.setPanSteps 0x1234#16) := by decide
theorem test_decode_setTiltSteps : decodeTableWord 56 0xFF010073010075 = some (.setTiltSteps 0x0100#16) := by decide
theorem test_decode_getTemperature : decodeTableWord 56 0xFF010091000092 = some .getTemperature := by decide
theorem test_decode_getVoltage : decodeTableWord 56 0xFF01009B00009C = some .getVoltage := by decide
theorem test_decode_zeroValue : decodeTableWord 56 0xFF010071000072 = some (.setPanSteps 0x0000#16) := by decide

theorem test_reject_length : decode [0xFF#8, 0x01#8] = .error (.wrongLength 2) := by decide
theorem test_reject_sync :
    decode [0x00#8, 0x01#8, 0x00#8, 0x51#8, 0x00#8, 0x00#8, 0x52#8] = .error (.badSync 0x00#8) := by decide
theorem test_reject_address :
    decode [0xFF#8, 0x02#8, 0x00#8, 0x51#8, 0x00#8, 0x00#8, 0x53#8] = .error (.badAddress 0x02#8) := by decide
theorem test_reject_command1 :
    decode [0xFF#8, 0x01#8, 0x01#8, 0x51#8, 0x00#8, 0x00#8, 0x53#8] = .error (.badCommand1 0x01#8) := by decide
theorem test_reject_opcode :
    decode [0xFF#8, 0x01#8, 0x00#8, 0x7C#8, 0x00#8, 0x00#8, 0x7D#8] = .error (.unknownOpcode 0x7C#8) := by decide
theorem test_reject_checksum :
    decode [0xFF#8, 0x01#8, 0x00#8, 0x71#8, 0x00#8, 0x00#8, 0x00#8] = .error (.badChecksum 0x00#8) := by decide
theorem test_reject_valueWithGet :
    decode [0xFF#8, 0x01#8, 0x00#8, 0x51#8, 0x00#8, 0x01#8, 0x53#8] = .error (.valueWithGet 0x0001#16) := by decide

/-! ## The codec (`95_test_vectors.md` sections 2 to 4) -/

/-- V-ENC-8. -/
theorem test_encode_bigEndian :
    frameBytes (encodeFrame 0x71#8 0x1234#16) = [0xFF#8, 0x01#8, 0x00#8, 0x71#8, 0x12#8, 0x34#8, 0xB8#8] := by decide
/-- V-ENC-10. -/
theorem test_encode_wrapsTwice :
    frameBytes (encodeFrame 0x71#8 0xFFFF#16) = [0xFF#8, 0x01#8, 0x00#8, 0x71#8, 0xFF#8, 0xFF#8, 0x70#8] := by decide
/-- V-ENC-18, an opcode outside the catalogue. -/
theorem test_encode_anyOpcode :
    frameBytes (encodeFrame 0xFF#8 0x0000#16) = [0xFF#8, 0x01#8, 0x00#8, 0xFF#8, 0x00#8, 0x00#8, 0x00#8] := by decide
/-- V-CS-4. -/
theorem test_checksum_zero : checksum 0x01#8 0x00#8 0x71#8 0x00#8 0x8E#8 = 0x00#8 := by decide
/-- X2, byte by byte (R83). -/
theorem test_encodeSerial :
    encodeSerial 0x73#8 0x0100#16 ⟨⟨1#8, 2#8, 3#8, 4#8, 5#8, 6#8, 7#8⟩, 0x75#8, 3⟩ =
      ⟨⟨0xFF#8, 0x01#8, 0x00#8, 0x73#8, 0x01#8, 0x00#8, 0x75#8⟩, 0x75#8, 6⟩ := by decide
/-- V-DEC-2. -/
theorem test_decodeReply_lenient :
    decodeReply [0x00#8, 0x00#8, 0x00#8, 0x00#8, 0x12#8, 0x34#8, 0x00#8] = some 0x1234#16 := by decide
/-- V-DEC-6. -/
theorem test_decodeReply_short : decodeReply [0xFF#8, 0x01#8, 0x00#8, 0x61#8, 0x01#8, 0x68#8] = none := by decide
/-- V-DEC-7. -/
theorem test_decodeReply_long :
    decodeReply [0xFF#8, 0x01#8, 0x00#8, 0x61#8, 0x01#8, 0x68#8, 0xCB#8, 0x00#8] = none := by decide

/-! ## Each command: the frame it sends (V-EX rows), and the record of a reply -/

/-- V-EX-2: the value beside a get is gated. -/
theorem test_getPanSteps_sends :
    lastFrame (execGetPanSteps (at' .encode 0#3 0xFFFF#16)) =
      some [0xFF#8, 0x01#8, 0x00#8, 0x51#8, 0x00#8, 0x00#8, 0x52#8] := by decide
/-- V-EX-16. -/
theorem test_getPanSteps_completes :
    lastRecord (execGetPanSteps (received 0#3 ⟨0x12#8, 0x34#8, 0x56#8, 0x78#8, 0x9A#8, 0xBC#8, 0xDE#8⟩)) =
      some (.ok 0x9ABC#16) := by decide
theorem test_getTiltSteps_sends :
    lastFrame (execGetTiltSteps (at' .encode 1#3 0#16)) =
      some [0xFF#8, 0x01#8, 0x00#8, 0x53#8, 0x00#8, 0x00#8, 0x54#8] := by decide
/-- V-EX-3. -/
theorem test_getTiltSteps_completes :
    lastRecord (execGetTiltSteps (received 1#3 ⟨0xFF#8, 0x01#8, 0x00#8, 0x63#8, 0x01#8, 0x00#8, 0x65#8⟩)) =
      some (.ok 0x0100#16) := by decide
theorem test_getPanMaxSteps_sends :
    lastFrame (execGetPanMaxSteps (at' .encode 2#3 0#16)) =
      some [0xFF#8, 0x01#8, 0x00#8, 0x55#8, 0x00#8, 0x00#8, 0x56#8] := by decide
/-- V-EX-5. -/
theorem test_getPanMaxSteps_completes :
    lastRecord (execGetPanMaxSteps (received 2#3 ⟨0xFF#8, 0x01#8, 0x00#8, 0x65#8, 0x00#8, 0x00#8, 0x66#8⟩)) =
      some (.ok 0x0000#16) := by decide
theorem test_getTiltMaxSteps_sends :
    lastFrame (execGetTiltMaxSteps (at' .encode 3#3 0#16)) =
      some [0xFF#8, 0x01#8, 0x00#8, 0x57#8, 0x00#8, 0x00#8, 0x58#8] := by decide
/-- V-EX-6. -/
theorem test_getTiltMaxSteps_completes :
    lastRecord (execGetTiltMaxSteps (received 3#3 ⟨0xFF#8, 0x01#8, 0x00#8, 0x67#8, 0x00#8, 0x87#8, 0xEF#8⟩)) =
      some (.ok 0x0087#16) := by decide
/-- V-EX-7. -/
theorem test_setPanSteps_sends :
    lastFrame (execSetPanSteps 0x1234#16 (at' .encode 4#3 0x1234#16)) =
      some [0xFF#8, 0x01#8, 0x00#8, 0x71#8, 0x12#8, 0x34#8, 0xB8#8] := by decide
/-- At accept the operand goes to `VAL`, not the port's lines. -/
theorem test_setPanSteps_accepts :
    (after (execSetPanSteps 0x1234#16 State.reset)).map (fun t => (t.csel, t.val, t.phase)) =
      some (4#3, 0x1234#16, .encode) := by decide
/-- V-EX-10. -/
theorem test_setTiltSteps_sends :
    lastFrame (execSetTiltSteps 0x0100#16 (at' .encode 5#3 0x0100#16)) =
      some [0xFF#8, 0x01#8, 0x00#8, 0x73#8, 0x01#8, 0x00#8, 0x75#8] := by decide
/-- V-EX-11. -/
theorem test_setTiltSteps_wraps :
    lastFrame (execSetTiltSteps 0x8D00#16 (at' .encode 5#3 0x8D00#16)) =
      some [0xFF#8, 0x01#8, 0x00#8, 0x73#8, 0x8D#8, 0x00#8, 0x01#8] := by decide
theorem test_getTemperature_sends :
    lastFrame (execGetTemperature (at' .encode 6#3 0#16)) =
      some [0xFF#8, 0x01#8, 0x00#8, 0x91#8, 0x00#8, 0x00#8, 0x92#8] := by decide
/-- V-EX-12: no sign extension. -/
theorem test_getTemperature_completes :
    lastRecord (execGetTemperature (received 6#3 ⟨0xFF#8, 0x01#8, 0x00#8, 0xA1#8, 0xFF#8, 0xF6#8, 0x97#8⟩)) =
      some (.ok 0xFFF6#16) := by decide
theorem test_getVoltage_sends :
    lastFrame (execGetVoltage (at' .encode 7#3 0#16)) =
      some [0xFF#8, 0x01#8, 0x00#8, 0x9B#8, 0x00#8, 0x00#8, 0x9C#8] := by decide
/-- V-EX-14. -/
theorem test_getVoltage_completes :
    lastRecord (execGetVoltage (received 7#3 ⟨0xFF#8, 0x01#8, 0x00#8, 0xAB#8, 0x04#8, 0xCE#8, 0x7E#8⟩)) =
      some (.ok 0x04CE#16) := by decide

/-! ## Errors, waits, reset (`95_test_vectors.md` sections 7 and 8) -/

/-- V-ER-1. -/
theorem test_sendFailure :
    (after (step { at' .send 4#3 0x1234#16 with port := moment (some (.fail ⟨7⟩)) none })).map
      (fun t => (t.phase, t.status, t.cause, t.completions)) =
      some (.idle, 1#2, some ⟨7⟩, [.transportError .send ⟨7⟩]) := by decide
/-- V-ER-2. -/
theorem test_receiveFailure :
    (after (step { at' .await 7#3 0#16 with port := moment none (some (.fail ⟨8⟩)) })).map
      (fun t => (t.phase, t.status, t.cause, t.completions)) =
      some (.idle, 2#2, some ⟨8⟩, [.transportError .receive ⟨8⟩]) := by decide
/-- V-ER-5: an empty datagram is taken. -/
theorem test_emptyDatagram :
    (after (step { at' .await 0#3 0#16 with port := moment none (some (.dgram [] ⟨9⟩)) })).map
      (fun t => (t.phase, t.rxlen)) = some (.decode, 0) := by decide
/-- V-ER-3. -/
theorem test_malformedReply :
    (after (step { at' .decode 0#3 0#16 with rxlen := 6 })).map
      (fun t => (t.phase, t.status, t.cause, t.rvalid, t.completions)) =
      some (.idle, 3#2, none, false, [.malformedFrame]) := by decide
/-- V-ER-6. -/
theorem test_awaitWaits :
    (after (step (at' .await 0#3 0#16))).map (fun t => (t.phase, t.busy, t.completions)) =
      some (.await, true, []) := by decide
/-- V-ER-8: a second command while busy is not taken. -/
theorem test_busyPort :
    (after (step { at' .await 4#3 1#16 with port := command 5#3 1#16 })).map (fun t => (t.csel, t.ready)) =
      some (4#3, false) := by decide
/-- V-RS-2. -/
theorem test_resetInAwait :
    (after (step { at' .await 4#3 0x1234#16 with status := 3#2, port := { Inputs.silent with rst := true } })).map
      (fun t => (t.phase, t.rvalid, t.status, t.result, t.completions)) =
      some (.idle, false, 0#2, none, []) := by decide
theorem test_withFetchWord :
    (after (step (State.reset.withFetchWord 56 0xFF010073010075))).map (fun t => (t.phase, t.csel, t.val)) =
      some (.encode, 5#3, 0x0100#16) := by decide

/-! ## The host layer (`95_test_vectors.md` section 9) -/

/-- The ratios of V-H-6 to V-H-11. -/
def ratios : Calibration := ⟨⟨3, 1⟩, ⟨2, 1⟩⟩

/-- The moments of one exchange whose transport sends and delivers these bytes. -/
def replyMoments (bs : List Byte) : List Inputs :=
  [moment none none, moment (some .sent) none, moment none (some (.dgram bs ⟨9⟩)), moment none none]

/-- A Device whose transport answers one exchange with these bytes. -/
def deviceReplying (bs : List Byte) : Device := { ratios with block := { State.reset with future := replyMoments bs } }

/-- A variant without temperature sensing (R123): it overrides the other eleven operations. -/
def withoutTemperature : Interface := { udp with getTemperature := notSupported }

/-- The construction inputs with the defaults. -/
def params : Params := { host := ⟨1⟩, port := ⟨2⟩, kind := .integer }

/-- P1's script: 360 pan steps, then 135 tilt steps. -/
def calibrating : State :=
  { State.reset with
    future := replyMoments [0xFF#8, 0x01#8, 0x00#8, 0x65#8, 0x01#8, 0x68#8, 0xCF#8] ++ moment none none ::
      replyMoments [0xFF#8, 0x01#8, 0x00#8, 0x67#8, 0x00#8, 0x87#8, 0xEF#8] }

/-- What construction built and sent. -/
def builtFrom (p : Params) (s : State) : Option (Calibration × List (List Byte)) :=
  match construct p s with
  | some (.device d) => some (d.toCalibration, d.block.sent.map fun g => frameBytes g.frame)
  | some (.failed _ _) => none
  | none => none

/-- What construction failed with, and how many datagrams it had sent. -/
def failedWith (p : Params) (s : State) : Option (HostFault × Nat) :=
  match construct p s with
  | some (.device _) => none
  | some (.failed b e) => some (e, b.sent.length)
  | none => none

/-- V-H-1. -/
theorem test_temperature : finish udp ratios .getTemperature (.ok 0xFFF6#16) = .ok (.signed (-10)) := by decide
/-- X3, V-H-4. -/
theorem test_voltage : finish udp ratios .getVoltage (.ok 0x04CE#16) = .ok (.volts 12.30) := by
  norm_num [finish, completionValue, Except.bind, Interface.method, udp, readMethod]
/-- V-H-6. -/
theorem test_setPanDegrees : commandFor udp ratios (.setPanDegrees 370) = .ok (.setPanSteps 0x001E#16) := by decide
/-- R146: the product is 7 * 46811 / 5 = 65535.4, over 0xFFFF although its floor is not. -/
theorem test_productOverflow :
    commandFor udp ⟨⟨46811, 5⟩, ⟨2, 1⟩⟩ (.setPanDegrees 7) = .error .stepsOverflow := by decide
/-- V-H-9. -/
theorem test_setTiltDegrees : commandFor udp ratios (.setTiltDegrees 135) = .ok (.setTiltSteps 0x0000#16) := by decide
/-- V-H-10, the whole operation on a block: the frame sent and the degrees returned. -/
theorem test_panDegrees :
    (operate udp .getPanDegrees (deviceReplying [0xFF#8, 0x01#8, 0x00#8, 0x61#8, 0x00#8, 0x22#8, 0x84#8])).map
      (fun x => (x.1.block.sent.map fun g => frameBytes g.frame, x.2)) =
      some ([[0xFF#8, 0x01#8, 0x00#8, 0x51#8, 0x00#8, 0x00#8, 0x52#8]], .ok (.degrees 11)) := by decide
/-- P5: no reply, no return. -/
theorem test_hangingOperation :
    operate udp .getTiltSteps { ratios with block := { State.reset with future := [moment none none, moment (some .sent) none] } } =
      none := by decide
/-- V-H-12. -/
theorem test_zeroRatio :
    finish udp ⟨⟨0, 1⟩, ⟨2, 1⟩⟩ .getPanDegrees (.ok 0x0022#16) = .error .divisionByZero := by decide
/-- P1, run on a block: the two requests in order, and both ratios 1. -/
theorem test_calibration :
    builtFrom params calibrating =
      some (⟨⟨1, 1⟩, ⟨1, 1⟩⟩, [[0xFF#8, 0x01#8, 0x00#8, 0x55#8, 0x00#8, 0x00#8, 0x56#8],
        [0xFF#8, 0x01#8, 0x00#8, 0x57#8, 0x00#8, 0x00#8, 0x58#8]]) := by decide
/-- V-H-13. -/
theorem test_zeroDegrees :
    failedWith { params with maxPanDegrees := 0 } calibrating = some (.divisionByZero, 2) := by decide
/-- R127: a failed first exchange surfaces, and no second request is sent. -/
theorem test_constructionFails :
    failedWith params { State.reset with future := [moment none none, moment (some (.fail ⟨7⟩)) none] } =
      some (.transportError .send ⟨7⟩, 1) := by decide
/-- P6 under `real`: 100 degrees set, 99 read back. -/
theorem test_realRoundTrip :
    commandFor udp ⟨⟨1000, 360⟩, ⟨135, 135⟩⟩ (.setPanDegrees 100) = .ok (.setPanSteps 0x0115#16) ∧
    finish udp ⟨⟨1000, 360⟩, ⟨135, 135⟩⟩ .getPanDegrees (.ok 0x0115#16) = .ok (.degrees 99) := by decide
/-- V-H-14. -/
theorem test_baseVariant : commandFor base ratios .getTemperature = .error .notSupported := by decide
/-- A partial variant: what it does not override fails, and what it does works. -/
theorem test_partialVariant :
    commandFor withoutTemperature ratios .getTemperature = .error .notSupported ∧
    commandFor withoutTemperature ratios (.setPanDegrees 370) = .ok (.setPanSteps 0x001E#16) := by decide

/-! ## Witnesses: a concrete case of each statement's hypotheses -/

/-- A seven-byte reply. -/
def reply : Frame := ⟨0xFF#8, 0x01#8, 0x00#8, 0x61#8, 0x01#8, 0x68#8, 0xCB#8⟩

/-- An idle block whose transport sends and delivers a seven-byte reply. -/
def willing : State := { State.reset with port := moment (some .sent) (some (.dgram (frameBytes reply) ⟨9⟩)) }

/-- A block in AWAIT whose request is out. -/
def asking : State :=
  { at' .await 4#3 0x1234#16 with
    txf := requestFrame 4#3 0x1234#16, acc := 0xB8#8, sent := [⟨requestFrame 4#3 0x1234#16, ⟨5⟩⟩], ep := ⟨5⟩ }

theorem witness_ChecksumIgnoresOrder :
    [5#8, 4#8, 3#8, 2#8, 1#8].Perm [1#8, 2#8, 3#8, 4#8, 5#8] := by decide
theorem witness_EncodeIsInjective : encodeFrame 0x71#8 0xFFFF#16 = encodeFrame 0x71#8 0xFFFF#16 := rfl
theorem witness_SplitAndJoin : 0x80 ≤ (0x80#8 : Byte).toNat := by decide
theorem witness_DecodeSeesTheValueBytesAlone : (frameBytes reply).length = 7 ∧ (List.replicate 7 (0#8 : Byte)).length = 7 := by
  decide
theorem witness_DecodeOfEncode : (Instr.setTiltSteps 0xFFFF#16).wellFormed = true := by decide
theorem witness_EncodeOfDecode :
    decode [0xFF#8, 0x01#8, 0x00#8, 0x71#8, 0xFF#8, 0xFF#8, 0x70#8] = .ok (.setPanSteps 0xFFFF#16) := by decide
/-- Idle with a command presented, and busy with one in flight. -/
theorem witness_StepRunsTheFetchedCommand :
    (∃ t, exec .getVoltage { State.reset with port := command 7#3 0#16 } = .next t ∧
      commandOf (command 7#3 0#16).csel (command 7#3 0#16).val = .getVoltage ∧ (command 7#3 0#16).rst = false ∧
      (command 7#3 0#16).hcValid = true ∧ Instr.getVoltage.wellFormed = true) ∧
    (∃ t, exec (.setPanSteps 0x1234#16) asking = .next t ∧ asking.phase ≠ .idle ∧ asking.port.rst = false ∧
      commandOf asking.csel asking.val = .setPanSteps 0x1234#16) :=
  ⟨⟨_, rfl, by decide⟩, ⟨_, rfl, by decide⟩⟩
theorem witness_StepRunsTheFetchedWord : decodeTableWord 56 0xFF010073010075 = some (.setTiltSteps 0x0100#16) := by decide
theorem witness_AcceptStep :
    ({ State.reset with port := command 0#3 0xFFFF#16 } : State).port.rst = false ∧
    ({ State.reset with port := command 0#3 0xFFFF#16 } : State).phase = .idle ∧
    ({ State.reset with port := command 0#3 0xFFFF#16 } : State).port.hcValid = true ∧
    asking.port.rst = false ∧ asking.phase ≠ .idle := by decide
theorem witness_ExecAcceptsWhenIdle : State.reset.phase = .idle := rfl
theorem witness_BuildAndSendStep :
    (at' .encode 4#3 0xFFFF#16).phase = .encode ∧ (at' .encode 4#3 0xFFFF#16).inFlight = .setPanSteps 0xFFFF#16 ∧
    asking.phase ≠ .encode := by decide
/-- In flight in SEND, with either answer on the port. -/
theorem witness_SendAnswerStep :
    let s := fun a => ({ at' .send 7#3 0#16 with port := moment (some a) none } : State)
    (s .sent).phase = .send ∧ (s .sent).inFlight = .getVoltage ∧ (s .sent).port.tsAnswer = some .sent ∧
      (s (.fail ⟨1⟩)).port.tsAnswer = some (.fail ⟨1⟩) := by decide
/-- In flight in AWAIT, with seven bytes and with eight. -/
theorem witness_ReceiveStep :
    let s := fun bs => ({ at' .await 6#3 0#16 with port := moment none (some (.dgram bs ⟨9⟩)) } : State)
    (s (frameBytes reply)).phase = .await ∧ (s (frameBytes reply)).inFlight = .getTemperature ∧
      (s (frameBytes reply)).port.trEvent = some (.dgram (frameBytes reply) ⟨9⟩) ∧
      (s (frameBytes reply ++ [0#8])).port.trEvent = some (.dgram (frameBytes reply ++ [0#8]) ⟨9⟩) ∧
      (frameBytes reply ++ [0#8]).length ≠ 7 := by decide
theorem witness_ReceiveFailStep :
    let s := fun e => ({ at' .await 1#3 0#16 with port := moment none e } : State)
    (s none).phase = .await ∧ (s none).inFlight = .getTiltSteps ∧ (s none).port.trEvent = none ∧
      (s (some (.fail ⟨1⟩))).port.trEvent = some (.fail ⟨1⟩) := by decide
/-- In DECODE with the length 7 and with the length 6. -/
theorem witness_DecodeAndCompleteStep :
    (received 2#3 reply).phase = .decode ∧ (received 2#3 reply).inFlight = .getPanMaxSteps ∧
    (received 2#3 reply).rxlen = 7 ∧ ({ received 2#3 reply with rxlen := 6 } : State).rxlen ≠ 7 := by decide
theorem witness_OtherCommandIsHeldOff : asking.busy = true ∧ asking.inFlight ≠ .setPanSteps 0x1235#16 := by decide
/-- A step that delivers each of the three error records. -/
theorem witness_ErrorCompletionWritesNothingElse :
    (∃ t, step { at' .send 4#3 0#16 with port := moment (some (.fail ⟨1⟩)) none } = .next t ∧
      t.completions = [] ++ [.transportError .send ⟨1⟩]) ∧
    (∃ t, step { at' .await 4#3 0#16 with port := moment none (some (.fail ⟨1⟩)) } = .next t ∧
      t.completions = [] ++ [.transportError .receive ⟨1⟩]) ∧
    (∃ t, step { at' .decode 4#3 0#16 with rxlen := 8 } = .next t ∧ t.completions = [] ++ [.malformedFrame]) :=
  ⟨⟨_, rfl, rfl⟩, ⟨_, rfl, rfl⟩, ⟨_, rfl, rfl⟩⟩
theorem witness_ExecFrame :
    (∃ t, exec .getPanSteps State.reset = .next t) ∧ (∃ t, exec .getPanSteps (at' .encode 0#3 0#16) = .next t) ∧
    (∃ t, exec (.setPanSteps 0x1234#16) asking = .next t) ∧ (∃ t, exec .getPanSteps (received 0#3 reply) = .next t) :=
  ⟨⟨_, rfl⟩, ⟨_, rfl⟩, ⟨_, rfl⟩, ⟨_, rfl⟩⟩
/-- Also the hypotheses of the three statements about the command families and of `ReplyValueAloneDecidesTheResult`. -/
theorem witness_EveryCommandCompletes :
    willing.phase = .idle ∧ willing.port.tsAnswer = some .sent ∧
    willing.port.trEvent = some (.dgram (frameBytes reply) ⟨9⟩) := by decide
theorem witness_PositionReadsComplete :
    willing.phase = .idle ∧ willing.port.tsAnswer = some .sent ∧
    willing.port.trEvent = some (.dgram [0xFF#8, 0x01#8, 0x00#8, 0x61#8, 0x01#8, 0x68#8, 0xCB#8] ⟨9⟩) := by decide
theorem witness_PositionSetsComplete :
    willing.phase = .idle ∧ willing.port.tsAnswer = some .sent ∧
    willing.port.trEvent = some (.dgram [0xFF#8, 0x01#8, 0x00#8, 0x61#8, 0x01#8, 0x68#8, 0xCB#8] ⟨9⟩) := by decide
theorem witness_SensorReadsComplete :
    willing.phase = .idle ∧ willing.port.tsAnswer = some .sent ∧
    willing.port.trEvent = some (.dgram [0xFF#8, 0x01#8, 0x00#8, 0x61#8, 0x01#8, 0x68#8, 0xCB#8] ⟨9⟩) := by decide
/-- Two exchanges of different commands from the same state, with the same reply. -/
theorem witness_ReplyValueAloneDecidesTheResult :
    willing.phase = .idle ∧ willing.port.tsAnswer = some .sent ∧
    willing.port.trEvent = some (.dgram (frameBytes reply) ⟨9⟩) ∧
    ExchangeRuns .getVoltage willing (exchanged .getVoltage reply willing) ∧
    ExchangeRuns (.setPanSteps 1#16) willing (exchanged (.setPanSteps 1#16) reply willing) :=
  ⟨rfl, rfl, rfl, ⟨_, _, _, _, rfl, rfl, rfl, rfl, rfl⟩, ⟨_, _, _, _, rfl, rfl, rfl, rfl, rfl⟩⟩
/-- One silent wait before each answer, for each of the three endings. -/
theorem witness_StepsCarryOutExchange :
    let w := [moment none none]
    let s := fun l => ({ State.reset with port := command 0#3 0#16, future := l } : State)
    let sent := moment (some .sent) none
    let failed := moment (some (.fail ⟨1⟩)) none
    let lost := moment none (some (.fail ⟨2⟩))
    let got := moment none (some (.dgram (frameBytes reply) ⟨9⟩))
    (s []).phase = .idle ∧ (s []).port.hcValid = true ∧ (s []).port.rst = false ∧ NoReset w ∧ SendUnanswered w ∧
    ReceiveUnanswered w ∧ sent.tsAnswer = some .sent ∧ failed.tsAnswer = some (.fail ⟨1⟩) ∧
    lost.trEvent = some (.fail ⟨2⟩) ∧ got.trEvent = some (.dgram (frameBytes reply) ⟨9⟩) ∧
    NoReset [sent, failed, lost, got, Inputs.silent] ∧
    (s (Inputs.silent :: w ++ failed :: [])).future = Inputs.silent :: w ++ failed :: [] ∧
    (s (Inputs.silent :: w ++ sent :: w ++ lost :: [])).future = Inputs.silent :: w ++ sent :: w ++ lost :: [] ∧
    (s (Inputs.silent :: w ++ sent :: w ++ got :: Inputs.silent :: [])).future =
      Inputs.silent :: w ++ sent :: w ++ got :: Inputs.silent :: [] := by decide
theorem witness_PhaseTransitions :
    (∃ t, step asking = .next t) ∧
    (∃ t, step { asking with port := { Inputs.silent with rst := true } } = .next t) :=
  ⟨⟨_, rfl⟩, ⟨_, rfl⟩⟩
theorem witness_IdleBlockWaits :
    State.reset.port.rst = false ∧ State.reset.phase = .idle ∧ State.reset.port.hcValid = false := by decide
/-- Unanswered in AWAIT and in SEND, with a second command presented meanwhile. -/
theorem witness_UnansweredBlockWaitsForEver :
    let s := fun p => ({ at' p 0#3 0#16 with future := [command 5#3 1#16] } : State)
    NoReset (s .await).moments ∧ (s .await).phase = .await ∧ ReceiveUnanswered (s .await).moments ∧
    (s .send).phase = .send ∧ SendUnanswered (s .send).moments := by decide
theorem witness_ResetFromAnyPhase :
    ({ asking with port := { Inputs.silent with rst := true } } : State).port.rst = true := rfl
theorem witness_BusyBlockIgnoresTheCommandPort : asking.busy = true := by decide
theorem witness_EventsAreTakenInTheirPhaseOnly : asking.phase ≠ .send ∧ State.reset.phase ≠ .await := by decide
/-- A good state in the middle of an exchange, and a step from it. -/
theorem witness_StepKeepsTheInvariant : asking.Inv ∧ ∃ t, step asking = .next t := ⟨by decide, _, rfl⟩
theorem witness_OneDatagramPerCompletion : asking.port.rst = false ∧ ∃ t, step asking = .next t := ⟨rfl, _, rfl⟩
theorem witness_RecordIsTheRegistersView :
    ∃ t, step (received 6#3 reply) = .next t ∧ t.completions = (received 6#3 reply).completions ++ [.ok 0x0168#16] :=
  ⟨_, rfl, by decide⟩
theorem witness_RequestOutNamesTheCommand : asking.Inv ∧ asking.requestOut := by decide
theorem witness_RunsSendRequestsToTheEndpoint : ∃ t, run 2 (State.reset.withFetchWord 56 0xFF010073010075) = .next t :=
  ⟨_, rfl⟩
/-- Two idle blocks with different registers and the same inputs. -/
theorem witness_EarlierExchangesAreInvisible :
    let s := ({ State.reset with ep := ⟨5⟩, future := [command 0#3 0#16] } : State)
    let s' := ({ s with result := some 0x0168#16, rvalid := true, acc := 0x52#8, rxlen := 7 } : State)
    s.phase = .idle ∧ s'.phase = .idle ∧ s.ep = s'.ep ∧ s.moments = s'.moments ∧ s ≠ s' := by decide
/-- Products at 0xFFFF and just over it, for a whole ratio (denominator 1) and for one that is not. -/
theorem witness_DegreeSettersSendSteps :
    (Ratio.mk 0xFFFF 1).den ≠ 0 ∧ (Ratio.mk 46811 5).den ≠ 0 ∧
    ((1 % 360 : Nat) : Rat) * (Ratio.mk 0xFFFF 1).value ≤ 0xFFFF ∧
    0xFFFF < ((1 % 360 : Nat) : Rat) * (Ratio.mk 0x10000 1).value ∧
    ((7 % 360 : Nat) : Rat) * (Ratio.mk 46810 5).value ≤ 0xFFFF ∧
    0xFFFF < ((7 % 360 : Nat) : Rat) * (Ratio.mk 46811 5).value ∧
    ((134 % 135 : Nat) : Rat) * (Ratio.mk 489 1).value ≤ 0xFFFF ∧
    0xFFFF < ((134 % 135 : Nat) : Rat) * (Ratio.mk 490 1).value := by
  norm_num [Ratio.value]
/-- A whole ratio, one that is not, and a zero ratio whose denominator is not 1. -/
theorem witness_DegreeReadsTruncate :
    (Ratio.mk 1000 360).den ≠ 0 ∧ (Ratio.mk 1000 360).value ≠ 0 ∧ (Ratio.mk 3 1).den = 1 ∧ (Ratio.mk 3 1).value ≠ 0 ∧
    (Ratio.mk 0 360).den ≠ 0 ∧ (Ratio.mk 0 360).value = 0 := by
  norm_num [Ratio.value]
/-- Both exchanges of construction run, under both kinds and with a zero. -/
theorem witness_CalibrationRatios :
    (∃ s₁ s₂, issue .getPanMaxSteps { calibrating with ep := Config.resolve params.host params.port } =
        some (s₁, .ok 0x0168#16) ∧ issue .getTiltMaxSteps s₁ = some (s₂, .ok 0x0087#16)) ∧
    params.maxPanDegrees ≠ 0 ∧ params.maxTiltDegrees ≠ 0 ∧ params.kind = .integer ∧
    ({ params with kind := .real } : Params).kind = .real ∧
    ({ params with maxTiltDegrees := 0 } : Params).maxTiltDegrees = 0 :=
  ⟨⟨_, _, rfl, rfl⟩, by decide⟩
/-- A first exchange whose send fails, and a second whose receive fails. -/
theorem witness_HostSurfacesErrors :
    (∃ s₁, issue .getPanMaxSteps (configure params
        { State.reset with future := [moment none none, moment (some (.fail ⟨7⟩)) none] }) =
        some (s₁, .transportError .send ⟨7⟩)) ∧
    (∃ s₁ s₂, issue .getPanMaxSteps (configure params
        { State.reset with
          future := replyMoments (frameBytes reply) ++
            [moment none none, moment none none, moment (some .sent) none, moment none (some (.fail ⟨8⟩))] }) =
        some (s₁, .ok 0x0168#16) ∧ issue .getTiltMaxSteps s₁ = some (s₂, .transportError .receive ⟨8⟩)) ∧
    completionValue (.transportError .send ⟨7⟩) = .error (.transportError .send ⟨7⟩) ∧
    completionValue (.transportError .receive ⟨8⟩) = .error (.transportError .receive ⟨8⟩) :=
  ⟨⟨_, rfl⟩, ⟨_, _, rfl, rfl⟩, rfl, rfl⟩
theorem witness_DegreeRoundTrip :
    (1000 : Nat) ≠ 0 ∧ (360 : Nat) ≠ 0 ∧
    commandFor udp ⟨⟨1000, 360⟩, ⟨1, 1⟩⟩ (.setPanDegrees 100) = .ok (.setPanSteps 0x0115#16) ∧
    commandFor udp ⟨⟨2, 1⟩, ⟨1, 1⟩⟩ (.setPanDegrees 100) = .ok (.setPanSteps 0x00C8#16) := by decide
/-- An operation a variant does not override, one that fails in its arithmetic, one that ends, and the moments of one. -/
theorem witness_HostCallSendsItsCommand :
    withoutTemperature.method .getTemperature = notSupported ∧
    commandFor udp ⟨⟨0x10000, 1⟩, ⟨2, 1⟩⟩ (.setPanDegrees 1) = .error .stepsOverflow ∧
    commandFor udp ratios (.setPanDegrees 370) = .ok (.setPanSteps 0x001E#16) ∧
    (∃ d', operate udp (.setPanDegrees 370) (deviceReplying (frameBytes reply)) = some (d', .ok .done)) ∧
    (deviceReplying (frameBytes reply)).block.phase = .idle ∧
    (deviceReplying (frameBytes reply)).block.port.rst = false ∧
    (deviceReplying (frameBytes reply)).block.future = replyMoments (frameBytes reply) ∧
    NoReset (replyMoments (frameBytes reply)) :=
  ⟨rfl, by decide, by decide, ⟨_, rfl⟩, rfl, rfl, rfl, by decide⟩

end Sys2Proof.Tests
end

/-! ## The catalogue and the request frame -/

namespace Sys2Proof.Machine

/-- Every opcode of the catalogue is in the opcode map of R69, and it is a get-style one exactly when its row carries no
value. -/
theorem lookup_opcode (c : BitVec 3) :
    (getOpcodes.contains (lookup c).opcode || setOpcodes.contains (lookup c).opcode) = true ∧
    getOpcodes.contains (lookup c).opcode = !(lookup c).hasValue := by
  revert c; decide

theorem requestFrame_opcodeOk (c : BitVec 3) (v : Value) : opcodeOk (requestFrame c v) = true := (lookup_opcode c).1

/-- Value gating (R105): a row that carries no value sends 0x0000. -/
theorem requestFrame_of_get {c : BitVec 3} (h : (lookup c).hasValue = false) (v : Value) :
    requestFrame c v = encodeFrame (lookup c).opcode 0x0000#16 := by
  rw [requestFrame, h]
  rfl

theorem requestFrame_getValueOk (c : BitVec 3) (v : Value) : getValueOk (requestFrame c v) = true := by
  cases hv : (lookup c).hasValue with
  | true =>
    have hset : getOpcodes.contains (requestFrame c v).opcode = false :=
      (lookup_opcode c).2.trans (by rw [hv]; rfl)
    rw [getValueOk, hset]
    rfl
  | false =>
    rw [requestFrame_of_get hv]
    exact Bool.or_true _

@[simp] theorem requestFrame_isRequest (c : BitVec 3) (v : Value) : (requestFrame c v).isRequest = true := by
  have hsum : checksumOk (requestFrame c v) = true := by simp [checksumOk, requestFrame_cksum]
  simp only [Frame.isRequest, requestFrame_opcodeOk, requestFrame_getValueOk, hsum, Bool.and_true]
  rfl

/-- ENCODE agrees with the frame column of R69: the address, Command-1 and the opcode add up to the row's base. -/
theorem frameBytes_encodeFrame (op : Byte) (v : Value) :
    frameBytes (encodeFrame op v) = encodeSet op (0x01#8 + op) v := by
  simp [frameBytes, encodeFrame, encodeSet, checksum, accAdd, hi8_eq_extract, lo8_eq_extract]

/-- Case analysis over the eight selectors. -/
theorem forall_selector {P : BitVec 3 → Prop} (h0 : P 0#3) (h1 : P 1#3) (h2 : P 2#3) (h3 : P 3#3) (h4 : P 4#3)
    (h5 : P 5#3) (h6 : P 6#3) (h7 : P 7#3) (c : BitVec 3) : P c :=
  match c with
  | 0#3 => h0
  | 1#3 => h1
  | 2#3 => h2
  | 3#3 => h3
  | 4#3 => h4
  | 5#3 => h5
  | 6#3 => h6
  | 7#3 => h7

/-- The block builds the command's row of the opcode map (R69, R106). -/
theorem frameBytes_requestFrame (c : BitVec 3) (v : Value) : frameBytes (requestFrame c v) = encode (commandOf c v) := by
  cases c using forall_selector with
  | h4 => exact frameBytes_encodeFrame 0x71#8 v
  | h5 => exact frameBytes_encodeFrame 0x73#8 v
  | h0 | h1 | h2 | h3 | h6 | h7 =>
    rw [requestFrame_of_get rfl]
    rfl

theorem selectorOf_commandOf (c : BitVec 3) (v : Value) : selectorOf (commandOf c v) = c := by
  cases c using forall_selector <;> rfl

theorem operandOf_commandOf (c : BitVec 3) (v : Value) :
    operandOf (commandOf c v) = if (lookup c).hasValue then some v else none := by
  cases c using forall_selector <;> rfl

/-- Settles O17, selector by selector. -/
theorem selectorNamesItsCommand : Obligations.SelectorNamesItsCommand :=
  ⟨commandOf_selectorOf, selectorOf_commandOf, operandOf_commandOf⟩

end Sys2Proof.Machine

/-! ## The operations of the block

`Laws/Step.lean` says which operation a step is. Here an operation is named once, with the phase it belongs to, and two
states that agree on what decides between the operations are shown to do the same one. For one state this is the
inversion of a step; for two it is what the noninterference statements need. -/

namespace Sys2Proof.Machine

theorem requestOut_iff {s : State} : s.requestOut ↔ s.phase ≠ .idle ∧ s.phase ≠ .encode := by
  cases h : s.phase <;> simp [State.requestOut, h]

theorem busy_iff {s : State} : s.busy = true ↔ s.phase ≠ .idle := by simp [State.busy]

theorem phase_ne_idle_of_requestOut {s : State} (h : s.requestOut) : s.phase ≠ .idle := (requestOut_iff.1 h).1

/-- The block has the transport's word that the request is sent, and waits for the reply (R107). -/
def awaitReply (s : State) : State := { s with phase := .await }

/-- The operations by which the exchange in flight advances, or waits (R106 to R110). -/
inductive Advances (s : State) : (State → State) → Prop where
  | wait : Advances s id
  | buildAndSend (hp : s.phase = .encode) : Advances s buildAndSend
  | awaitReply (hp : s.phase = .send) : Advances s awaitReply
  | receive (hp : s.phase = .await) (bs : List Byte) : Advances s (receiveDatagram bs)
  | error (ho : s.requestOut) (e : BlockError) : Advances s (raise e)
  | ok (hp : s.phase = .decode) (v : Value) : Advances s (completeOk v)

/-- The operations of the block (R104 to R110, R170). -/
inductive Moves (s : State) : (State → State) → Prop where
  | reset (hr : s.port.rst = true) : Moves s takeReset
  | accept (hp : s.phase = .idle) (c : BitVec 3) (v : Value) : Moves s (accept c v)
  | advance {f : State → State} (h : Advances s f) : Moves s f

/-- Two states agree on everything that decides which operation is next: in each phase, on what that phase reads. -/
structure SameCue (s t : State) : Prop where
  phase : s.phase = t.phase
  rst : s.port.rst = t.port.rst
  command : s.phase = .idle →
    s.port.hcValid = t.port.hcValid ∧ s.port.csel = t.port.csel ∧ s.port.val = t.port.val
  answer : s.phase = .send → s.port.tsAnswer = t.port.tsAnswer
  event : s.phase = .await → s.port.trEvent = t.port.trEvent
  reply : s.phase = .decode → s.rxlen = t.rxlen ∧ (s.rxlen = 7 → s.rxf = t.rxf)

theorem sameCue_refl (s : State) : SameCue s s :=
  ⟨rfl, rfl, fun _ => ⟨rfl, rfl, rfl⟩, fun _ => rfl, fun _ => rfl, fun _ => ⟨rfl, fun _ => rfl⟩⟩

theorem SameCue.advances {s t : State} (h : SameCue s t) : ∃ f, Advances s f ∧ advance s = f s ∧ advance t = f t := by
  have hphase := h.phase
  cases hp : s.phase with
  | idle => exact ⟨id, .wait, by simp [advance, hp], by simp [advance, ← hphase, hp]⟩
  | encode => exact ⟨_, .buildAndSend hp, advance_encode hp, advance_encode (hphase ▸ hp)⟩
  | send =>
    rw [advance_send hp, advance_send (hphase ▸ hp), sendAnswer, sendAnswer, ← h.answer hp]
    match s.port.tsAnswer with
    | none => exact ⟨_, .wait, rfl, rfl⟩
    | some .sent => exact ⟨_, .awaitReply hp, rfl, rfl⟩
    | some (.fail c) => exact ⟨_, .error (.inl hp) (.sendFailed c), rfl, rfl⟩
  | await =>
    rw [advance_await hp, advance_await (hphase ▸ hp), receive, receive, ← h.event hp]
    match s.port.trEvent with
    | none => exact ⟨_, .wait, rfl, rfl⟩
    | some (.dgram bs _) => exact ⟨_, .receive hp bs, rfl, rfl⟩
    | some (.fail c) => exact ⟨_, .error (.inr (.inl hp)) (.receiveFailed c), rfl, rfl⟩
  | decode =>
    obtain ⟨hlen, hrxf⟩ := h.reply hp
    rw [advance_decode hp, advance_decode (hphase ▸ hp), decodeAndComplete, decodeAndComplete, ← hlen]
    by_cases hl : s.rxlen = 7
    · exact ⟨_, .ok hp (frameValue s.rxf), if_pos hl, by rw [if_pos hl, hrxf hl]⟩
    · exact ⟨_, .error (.inr (.inr hp)) .malformedReply, if_neg hl, if_neg hl⟩

theorem SameCue.moves {s t : State} (h : SameCue s t) : ∃ f, Moves s f ∧ blockNext s = f s ∧ blockNext t = f t := by
  rw [blockNext, blockNext, ← h.phase, ← h.rst]
  split
  next hr => exact ⟨_, .reset hr, rfl, rfl⟩
  split
  next hp =>
    obtain ⟨hv, hc, hval⟩ := h.command hp
    rw [← hv, ← hc, ← hval]
    split
    · exact ⟨_, .accept hp _ _, rfl, rfl⟩
    · exact ⟨_, .advance .wait, rfl, rfl⟩
  next =>
    obtain ⟨f, hf, hs, ht⟩ := h.advances
    exact ⟨f, .advance hf, hs, ht⟩

theorem advance_eq (s : State) : ∃ f, Advances s f ∧ advance s = f s := by
  obtain ⟨f, hf, h, -⟩ := (sameCue_refl s).advances
  exact ⟨f, hf, h⟩

theorem blockNext_eq (s : State) : ∃ f, Moves s f ∧ blockNext s = f s := by
  obtain ⟨f, hf, h, -⟩ := (sameCue_refl s).moves
  exact ⟨f, hf, h⟩

end Sys2Proof.Machine

/-! ## The invariant -/

namespace Sys2Proof.Machine

/-- A transport's error is the one that carries a cause (R29, R158). -/
theorem errorCause_isSome (e : BlockError) :
    (errorCause e).isSome = true ↔
      (errorStatus e = Config.statusSendError ∨ errorStatus e = Config.statusReceiveError) := by
  cases e <;> simp [errorCause, errorStatus, Config.statusMalformed, Config.statusSendError,
    Config.statusReceiveError]

theorem causeMatches_of_ok {s : State} (hs : s.status = Config.statusOk) (hc : s.cause = none) :
    CauseMatchesStatus s := by
  rw [CauseMatchesStatus, hs, hc]
  decide

theorem completions_le_sent {s : State} (h : SentCoverCompletions s) : s.completions.length ≤ s.sent.length :=
  (Nat.le_add_right _ _).trans h

theorem completions_lt_sent {s : State} (h : SentCoverCompletions s) (ho : s.requestOut) :
    s.completions.length < s.sent.length := by
  rwa [SentCoverCompletions, if_pos ho] at h

theorem sentCover_of_le {s : State} (ho : ¬ s.requestOut) (h : s.completions.length ≤ s.sent.length) :
    SentCoverCompletions s := by
  rwa [SentCoverCompletions, if_neg ho]

theorem sentCover_of_lt {s : State} (h : s.completions.length < s.sent.length) : SentCoverCompletions s := by
  unfold SentCoverCompletions
  split <;> omega

/-- The invariant reads neither the port nor the later moments. -/
theorem inv_nextMoment {s : State} (h : s.Inv) : (nextMoment s).Inv := h

theorem inv_takeReset {s : State} (h : s.Inv) : (takeReset s).Inv := by
  obtain ⟨-, -, -, -, -, hreq, hcov⟩ := h
  have hout : ¬ (takeReset s).requestOut := by simp [requestOut_iff]
  exact ⟨rfl, causeMatches_of_ok rfl rfl, fun _ => rfl, fun _ => rfl, fun h => absurd h hout, hreq,
    sentCover_of_le hout (completions_le_sent (s := s) hcov)⟩

theorem inv_accept {s : State} (h : s.Inv) (c : BitVec 3) (v : Value) : (accept c v s).Inv := by
  obtain ⟨-, hcause, -, -, -, hreq, hcov⟩ := h
  have hout : ¬ (accept c v s).requestOut := by simp [requestOut_iff]
  exact ⟨rfl, hcause, nofun, fun _ => rfl, fun h => absurd h hout, hreq,
    sentCover_of_le hout (completions_le_sent (s := s) hcov)⟩

/-- BUILD-AND-SEND presents the request that the command in flight selects, and with it covers the exchange. -/
theorem inv_buildAndSend {s : State} (h : s.Inv) (hp : s.phase = .encode) : (buildAndSend s).Inv := by
  obtain ⟨hres, hcause, hok, hbusy, -, hreq, hcov⟩ := h
  refine ⟨hres, hcause, hok, fun _ => hbusy (by simp [busy_iff, hp]), fun _ => ⟨rfl, rfl, by simp⟩, fun d hd => ?_,
    sentCover_of_lt (by simpa [Nat.lt_succ_iff] using completions_le_sent (s := s) hcov)⟩
  rcases List.mem_append.1 hd with hd | hd
  · exact hreq d hd
  · rw [List.mem_singleton.1 hd]
    exact ⟨requestFrame_isRequest .., rfl⟩

/-- While the request stays out, the phase may move on and a reply come in: the invariant reads nothing else of these. -/
theorem inv_requestOut {s : State} (h : s.Inv) (ho : s.requestOut) (p : Phase) (n : Nat)
    (f : Frame) : ({ s with phase := p, rxlen := n, rxf := f } : State).Inv := by
  obtain ⟨hres, hcause, hok, hbusy, hheld, hreq, hcov⟩ := h
  exact ⟨hres, hcause, hok, fun _ => hbusy (busy_iff.2 (phase_ne_idle_of_requestOut ho)), fun _ => hheld ho, hreq,
    sentCover_of_lt (completions_lt_sent (s := s) hcov ho)⟩

theorem inv_raise {s : State} (h : s.Inv) (ho : s.requestOut) (e : BlockError) : (raise e s).Inv := by
  obtain ⟨hres, -, -, hbusy, -, hreq, hcov⟩ := h
  have hinvalid : s.rvalid = false := hbusy (busy_iff.2 (phase_ne_idle_of_requestOut ho))
  have hout : ¬ (raise e s).requestOut := by simp [requestOut_iff]
  exact ⟨hres, errorCause_isSome e, fun hv => absurd hv (by simp [hinvalid]), fun _ => hinvalid,
    fun h => absurd h hout, hreq, sentCover_of_le hout (by simpa using completions_lt_sent (s := s) hcov ho)⟩

theorem inv_completeOk {s : State} (h : s.Inv) (ho : s.requestOut) (v : Value) : (completeOk v s).Inv := by
  obtain ⟨-, -, -, -, -, hreq, hcov⟩ := h
  have hout : ¬ (completeOk v s).requestOut := by simp [requestOut_iff]
  exact ⟨rfl, causeMatches_of_ok rfl rfl, fun _ => rfl, fun hb => absurd rfl (busy_iff.1 hb), fun h => absurd h hout,
    hreq, sentCover_of_le hout (by simpa using completions_lt_sent (s := s) hcov ho)⟩

theorem inv_of_advances {s : State} {f : State → State} (h : s.Inv) (hf : Advances s f) : (f s).Inv := by
  cases hf with
  | wait => exact h
  | buildAndSend hp => exact inv_buildAndSend h hp
  | awaitReply hp => exact inv_requestOut h (.inl hp) .await s.rxlen s.rxf
  | receive hp bs => exact inv_requestOut h (.inr (.inl hp)) ..
  | error ho e => exact inv_raise h ho e
  | ok hp v => exact inv_completeOk h (.inr (.inr hp)) v

theorem inv_of_moves {s : State} {f : State → State} (h : s.Inv) (hf : Moves s f) : (f s).Inv := by
  cases hf with
  | reset => exact inv_takeReset h
  | accept _ c v => exact inv_accept h c v
  | advance hf => exact inv_of_advances h hf

/-- Settles O47: each operation keeps the invariant. -/
theorem stepKeepsTheInvariant : Obligations.StepKeepsTheInvariant := by
  intro s t h hst
  obtain ⟨f, hf, hb⟩ := blockNext_eq s
  rw [step_next_iff.1 hst, hb]
  exact inv_nextMoment (inv_of_moves h hf)

/-- Settles O46: after reset no request is out, nothing has been sent, and no flag promises a value. -/
theorem resetIsGood : Obligations.ResetIsGood :=
  ⟨rfl, causeMatches_of_ok rfl rfl, nofun, nofun, by simp [RequestHeld, State.requestOut, State.reset], nofun, by decide⟩

/-- Settles O42: `State.reset` is written out with these values. -/
theorem resetValues : Obligations.ResetValues := ⟨rfl, rfl, rfl, rfl⟩

end Sys2Proof.Machine

/-! ## Two runs side by side (R15)

What the block does next depends on its phase, the ports and, while busy, the registers that the exchange in flight has
already written. `Abreast` says that two blocks agree on just these. It holds of any two idle blocks with the same inputs,
every step keeps it, and blocks abreast show the outside the same. -/

namespace Sys2Proof.Machine

/-- Two blocks agree on everything that can still influence what they do. -/
structure Abreast (s t : State) : Prop where
  phase : s.phase = t.phase
  ep : s.ep = t.ep
  port : s.port = t.port
  future : s.future = t.future
  command : s.phase ≠ .idle → s.csel = t.csel ∧ s.val = t.val
  result : s.phase ≠ .idle → s.rvalid = t.rvalid ∧ s.result = t.result
  reply : s.phase = .decode → s.rxlen = t.rxlen ∧ (s.rxlen = 7 → s.rxf = t.rxf)

/-- The outcome registers behind the host's read path are the same (R21). -/
def SameOutcome (s t : State) : Prop :=
  s.rvalid = t.rvalid ∧ s.result = t.result ∧ s.status = t.status ∧ s.cause = t.cause

theorem abreast_of_idle {s t : State} (hs : s.phase = .idle) (ht : t.phase = .idle) (hep : s.ep = t.ep)
    (hm : s.moments = t.moments) : Abreast s t := by
  obtain ⟨hport, hfuture⟩ := List.cons.inj hm
  exact ⟨hs.trans ht.symm, hep, hport, hfuture, fun h => absurd hs h, fun h => absurd hs h, by simp [hs]⟩

theorem sameCue_of_abreast {s t : State} (h : Abreast s t) : SameCue s t :=
  ⟨h.phase, by rw [h.port], fun _ => by simp [h.port], fun _ => by rw [h.port], fun _ => by rw [h.port], h.reply⟩

theorem abreast_nextMoment {s t : State} (h : Abreast s t) : Abreast (nextMoment s) (nextMoment t) where
  phase := h.phase
  ep := h.ep
  port := congrArg (List.headD · Inputs.silent) h.future
  future := congrArg List.tail h.future
  command := h.command
  result := h.result
  reply := h.reply

theorem frameOfBytes_getD_eq {bs : List Byte} (h : bs.length = 7) (f g : Frame) :
    (frameOfBytes bs).getD f = (frameOfBytes bs).getD g := by
  obtain ⟨r, hr⟩ := Option.isSome_iff_exists.1 ((frameOfBytes_isSome bs).2 h)
  rw [hr, Option.getD_some, Option.getD_some]

theorem abreast_of_advances {s t : State} {f : State → State} (h : Abreast s t) (hf : Advances s f) :
    Abreast (f s) (f t) := by
  have hm : s.moments = t.moments := congrArg₂ List.cons h.port h.future
  cases hf with
  | wait => exact h
  | buildAndSend hp | awaitReply hp =>
    have hbusy : s.phase ≠ .idle := by simp [hp]
    exact ⟨rfl, h.ep, h.port, h.future, fun _ => h.command hbusy, fun _ => h.result hbusy, nofun⟩
  | receive hp bs =>
    have hbusy : s.phase ≠ .idle := by simp [hp]
    exact ⟨rfl, h.ep, h.port, h.future, fun _ => h.command hbusy, fun _ => h.result hbusy,
      fun _ => ⟨rfl, fun hl => frameOfBytes_getD_eq hl ..⟩⟩
  | error ho e => exact abreast_of_idle rfl rfl h.ep hm
  | ok hp v => exact abreast_of_idle rfl rfl h.ep hm

theorem abreast_of_moves {s t : State} {f : State → State} (h : Abreast s t) (hf : Moves s f) : Abreast (f s) (f t) := by
  cases hf with
  | reset => exact abreast_of_idle rfl rfl h.ep (congrArg₂ List.cons h.port h.future)
  | accept _ c v => exact ⟨rfl, h.ep, h.port, h.future, fun _ => ⟨rfl, rfl⟩, fun _ => ⟨rfl, rfl⟩, nofun⟩
  | advance hf => exact abreast_of_advances h hf

/-- What two blocks have shown between `s`, `t` and `s'`, `t'`: the same new datagrams and the same new records. A record
leaves the same outcome registers, and outcome registers that are the same stay the same. -/
def ShownAlike (s t s' t' : State) : Prop :=
  ∃ ds cs, s'.sent = s.sent ++ ds ∧ t'.sent = t.sent ++ ds ∧
    s'.completions = s.completions ++ cs ∧ t'.completions = t.completions ++ cs ∧
    (cs ≠ [] ∨ SameOutcome s t → SameOutcome s' t')

theorem shownAlike_of_nothing {s t s' t' : State} (hs : s'.sent = s.sent ∧ s'.completions = s.completions)
    (ht : t'.sent = t.sent ∧ t'.completions = t.completions) (ho : SameOutcome s t → SameOutcome s' t') :
    ShownAlike s t s' t' :=
  ⟨[], [], by simp [hs], by simp [ht], by simp [hs], by simp [ht], fun h => ho (h.resolve_left (· rfl))⟩

theorem shownAlike_trans {s t s' t' s'' t'' : State} (h : ShownAlike s t s' t') (h' : ShownAlike s' t' s'' t'') :
    ShownAlike s t s'' t'' := by
  obtain ⟨ds, cs, hsd, htd, hsc, htc, ho⟩ := h
  obtain ⟨ds', cs', hsd', htd', hsc', htc', ho'⟩ := h'
  refine ⟨ds ++ ds', cs ++ cs', by simp [hsd', hsd], by simp [htd', htd], by simp [hsc', hsc], by simp [htc', htc], ?_⟩
  intro hshown
  by_cases hcs' : cs' = []
  · exact ho' (.inr (ho (by simpa [hcs'] using hshown)))
  · exact ho' (.inl hcs')

theorem shownAlike_of_advances {s t : State} {f : State → State} (h : Abreast s t) (hf : Advances s f) :
    ShownAlike s t (f s) (f t) := by
  cases hf with
  | wait | awaitReply | receive => exact shownAlike_of_nothing ⟨rfl, rfl⟩ ⟨rfl, rfl⟩ id
  | buildAndSend hp =>
    obtain ⟨hc, hv⟩ := h.command (by simp [hp])
    exact ⟨[⟨requestFrame s.csel s.val, s.ep⟩], [], rfl, by simp [hc, hv, h.ep], by simp, by simp,
      fun ho => ho.resolve_left (· rfl)⟩
  | error ho e =>
    obtain ⟨hvalid, hresult⟩ := h.result (phase_ne_idle_of_requestOut ho)
    exact ⟨[], [errorRecord e], by simp, by simp, rfl, rfl, fun _ => ⟨hvalid, hresult, rfl, rfl⟩⟩
  | ok hp v => exact ⟨[], [.ok v], by simp, by simp, rfl, rfl, fun _ => ⟨rfl, rfl, rfl, rfl⟩⟩

theorem shownAlike_of_moves {s t : State} {f : State → State} (h : Abreast s t) (hf : Moves s f) :
    ShownAlike s t (f s) (f t) := by
  cases hf with
  | reset => exact shownAlike_of_nothing ⟨rfl, rfl⟩ ⟨rfl, rfl⟩ fun _ => ⟨rfl, rfl, rfl, rfl⟩
  | accept _ c v =>
    exact shownAlike_of_nothing ⟨rfl, rfl⟩ ⟨rfl, rfl⟩ fun ⟨_, _, hstatus, hcause⟩ => ⟨rfl, rfl, hstatus, hcause⟩
  | advance hf => exact shownAlike_of_advances h hf

theorem abreast_stepNext {s t : State} (h : Abreast s t) :
    Abreast (stepNext s) (stepNext t) ∧ ShownAlike s t (stepNext s) (stepNext t) := by
  obtain ⟨f, hf, hs, ht⟩ := (sameCue_of_abreast h).moves
  rw [stepNext, stepNext, hs, ht]
  exact ⟨abreast_nextMoment (abreast_of_moves h hf), shownAlike_of_moves h hf⟩

theorem abreast_run (k : Nat) {s t : State} (h : Abreast s t) :
    ∃ s' t', run k s = .next s' ∧ run k t = .next t' ∧ Abreast s' t' ∧ ShownAlike s t s' t' := by
  induction k generalizing s t with
  | zero => exact ⟨s, t, rfl, rfl, h, shownAlike_of_nothing ⟨rfl, rfl⟩ ⟨rfl, rfl⟩ id⟩
  | succ k ih =>
    obtain ⟨hnext, hshown⟩ := abreast_stepNext h
    obtain ⟨s', t', hs, ht, hend, hrest⟩ := ih hnext
    exact ⟨s', t', (run_succ k s).trans hs, (run_succ k t).trans ht, hend, shownAlike_trans hshown hrest⟩

/-- Settles O52: two idle blocks with the same inputs are abreast, and stay so along the run. -/
theorem earlierExchangesAreInvisible : Obligations.EarlierExchangesAreInvisible := by
  intro s₁ s₂ h₁ h₂ hep hm k
  obtain ⟨t₁, t₂, hr₁, hr₂, habreast, ds, cs, hd₁, hd₂, hc₁, hc₂, ho⟩ := abreast_run k (abreast_of_idle h₁ h₂ hep hm)
  exact ⟨t₁, t₂, hr₁, hr₂, habreast.phase, ds, cs, hd₁, hd₂, hc₁, hc₂, fun hcs => ho (.inl hcs)⟩

end Sys2Proof.Machine

/-! ## What an operation leaves unchanged, and what it delivers -/

namespace Sys2Proof.Machine

/-- Which registers a step of the block from `s` to `t` may write (R21): the frame of `Obligations.ExecFrame`. -/
structure KeepsFrame (s t : State) : Prop where
  inputs : t.ep = s.ep ∧ t.port = s.port ∧ t.future = s.future ∧ t.draws = s.draws
  command : s.phase ≠ .idle → t.csel = s.csel ∧ t.val = s.val
  request : s.phase ≠ .encode → t.txf = s.txf ∧ t.acc = s.acc ∧ t.idx = s.idx ∧ t.sent = s.sent
  reply : s.phase ≠ .await → t.rxlen = s.rxlen ∧ t.rxf = s.rxf
  outcome : s.phase = .idle ∨ s.phase = .encode → t.completions = s.completions ∧ t.status = s.status ∧ t.cause = s.cause
  result : s.phase ≠ .idle → s.phase ≠ .decode → t.result = s.result ∧ t.rvalid = s.rvalid

theorem keepsFrame_refl (s : State) : KeepsFrame s s where
  inputs := ⟨rfl, rfl, rfl, rfl⟩
  command _ := ⟨rfl, rfl⟩
  request _ := ⟨rfl, rfl, rfl, rfl⟩
  reply _ := ⟨rfl, rfl⟩
  outcome _ := ⟨rfl, rfl, rfl⟩
  result _ _ := ⟨rfl, rfl⟩

theorem keepsFrame_accept {s : State} (hp : s.phase = .idle) (c : BitVec 3) (v : Value) : KeepsFrame s (accept c v s) :=
  { keepsFrame_refl s with
    command := fun h => absurd hp h
    result := fun h => absurd hp h }

theorem keepsFrame_of_advances {s : State} {f : State → State} (hf : Advances s f) : KeepsFrame s (f s) := by
  cases hf with
  | wait => exact keepsFrame_refl s
  | buildAndSend hp => exact { keepsFrame_refl s with request := fun h => absurd hp h }
  | awaitReply hp => exact { keepsFrame_refl s with }
  | receive hp bs => exact { keepsFrame_refl s with reply := fun h => absurd hp h }
  | error ho e =>
    exact { keepsFrame_refl s with outcome := fun h => absurd h (by simpa [not_or] using requestOut_iff.1 ho) }
  | ok hp v =>
    exact { keepsFrame_refl s with
      outcome := fun h => absurd h (by simp [hp])
      result := fun _ h => absurd hp h }

/-- Settles O30: a command accepted, the exchange advanced and a command held off each keep the frame. -/
theorem execFrame : Obligations.ExecFrame := by
  intro i s t h
  obtain ⟨hinputs, hcommand, hrequest, hreply, houtcome, hresult⟩ : KeepsFrame s t := by
    rcases exec_cases h with ⟨hp, rfl⟩ | ⟨-, -, rfl⟩ | ⟨-, -, rfl⟩
    · exact keepsFrame_accept hp ..
    · obtain ⟨f, hf, ha⟩ := advance_eq s
      exact ha ▸ keepsFrame_of_advances hf
    · exact keepsFrame_refl _
  exact ⟨hinputs, hcommand, hrequest, hreply, houtcome, hresult⟩

theorem raise_record (e : BlockError) (s : State) : (raise e s).record = some (errorRecord e) := by
  cases e <;> rfl

theorem completeOk_record (v : Value) (s : State) : (completeOk v s).record = some (.ok v) := rfl

/-- An operation that delivers a record leaves the registers that spell it. -/
theorem record_of_advances {s : State} {f : State → State} (hf : Advances s f) :
    (f s).completions = s.completions ∨ ∃ r, (f s).completions = s.completions ++ [r] ∧ (f s).record = some r := by
  cases hf with
  | wait | buildAndSend | awaitReply | receive => exact .inl rfl
  | error _ e => exact .inr ⟨_, rfl, raise_record e s⟩
  | ok _ v => exact .inr ⟨_, rfl, completeOk_record v s⟩

theorem record_of_moves {s : State} {f : State → State} (hf : Moves s f) :
    (f s).completions = s.completions ∨ ∃ r, (f s).completions = s.completions ++ [r] ∧ (f s).record = some r := by
  cases hf with
  | reset | accept => exact .inl rfl
  | advance hf => exact record_of_advances hf

/-- Settles O49: only an error and a success deliver a record, and each writes the registers that spell it. -/
theorem recordIsTheRegistersView : Obligations.RecordIsTheRegistersView := by
  intro s t c hst hc
  obtain ⟨f, hf, hb⟩ := blockNext_eq s
  obtain rfl : t = nextMoment (f s) := hb ▸ step_next_iff.1 hst
  have hc' : (f s).completions = s.completions ++ [c] := hc
  rcases record_of_moves hf with hsame | ⟨r, hr, hrecord⟩
  · simp [hsame] at hc'
  · obtain rfl : r = c := by simpa [hr] using hc'
    exact hrecord

/-- The one operation that presents a datagram presents the request of the command in flight (R106). -/
theorem sent_of_moves {s : State} {f : State → State} (hf : Moves s f) :
    (f s).sent = s.sent ∨ (f s).sent = s.sent ++ [⟨requestFrame s.csel s.val, s.ep⟩] := by
  cases hf with
  | reset | accept => exact .inl rfl
  | advance hf =>
    cases hf with
    | buildAndSend => exact .inr rfl
    | wait | awaitReply | receive | error | ok => exact .inl rfl

theorem ep_of_moves {s : State} {f : State → State} (hf : Moves s f) : (f s).ep = s.ep := by
  cases hf with
  | reset | accept => rfl
  | advance hf => cases hf <;> rfl

/-- From `s` to `t` the Endpoint and the records stay, and only requests addressed at that Endpoint are presented. -/
def OnlyRequests (s t : State) : Prop :=
  t.ep = s.ep ∧ s.completions <+: t.completions ∧
    ∃ ds, t.sent = s.sent ++ ds ∧ ∀ d ∈ ds, d.ep = s.ep ∧ ∃ i, frameBytes d.frame = encode i

theorem onlyRequests_refl (s : State) : OnlyRequests s s := ⟨rfl, List.prefix_refl _, [], by simp, nofun⟩

theorem onlyRequests_of_moves {s t : State} {f : State → State} (h : OnlyRequests s t) (hf : Moves t f) :
    OnlyRequests s (f t) := by
  obtain ⟨hep, hrecords, ds, hsent, hds⟩ := h
  refine ⟨(ep_of_moves hf).trans hep, hrecords.trans ?_, ?_⟩
  · rcases record_of_moves hf with h | ⟨r, h, -⟩ <;> simp [h]
  · rcases sent_of_moves hf with h | h
    · exact ⟨ds, h.trans hsent, hds⟩
    · refine ⟨ds ++ [⟨requestFrame t.csel t.val, t.ep⟩], by simp [h, hsent], fun d hd => ?_⟩
      rcases List.mem_append.1 hd with hd | hd
      · exact hds d hd
      · rw [List.mem_singleton.1 hd]
        exact ⟨hep, _, frameBytes_requestFrame ..⟩

theorem onlyRequests_stepNext {s t : State} (h : OnlyRequests s t) : OnlyRequests s (stepNext t) := by
  obtain ⟨f, hf, hb⟩ := blockNext_eq t
  show OnlyRequests s (blockNext t)
  rw [hb]
  exact onlyRequests_of_moves h hf

/-- Settles O51, by induction on the run. -/
theorem runsSendRequestsToTheEndpoint : Obligations.RunsSendRequestsToTheEndpoint := by
  intro k s t h
  exact run_induction (P := OnlyRequests s) (fun _ => onlyRequests_stepNext) (onlyRequests_refl s) h

end Sys2Proof.Machine

/-! ## What a step runs -/

namespace Sys2Proof.Machine

theorem step_of_fetch {s t : State} {i : Instr} (hr : s.port.rst = false) (hf : fetch s = some i)
    (he : exec i s = .next t) : step s = .next (nextMoment t) := by
  simp [step, blockStep, hr, hf, he]

theorem fetch_of_idle {s : State} (hp : s.phase = .idle) (hv : s.port.hcValid = true) :
    fetch s = some (commandOf s.port.csel s.port.val) := by
  simp [fetch, hp, hv]

theorem fetch_of_busy {s : State} (hp : s.phase ≠ .idle) : fetch s = some s.inFlight := by
  simp [fetch, hp]

/-- Settles O19: the command that the port or the registers name is the one `fetch` answers. -/
theorem stepRunsTheFetchedCommand : Obligations.StepRunsTheFetchedCommand := by
  rintro s t i hr - (⟨hp, hv, rfl⟩ | ⟨hp, rfl⟩) he
  · exact step_of_fetch hr (fetch_of_idle hp hv) he
  · exact step_of_fetch hr (fetch_of_busy hp) he

/-- The command of a table word, presented on port `HC` of an idle block (log entry 10). -/
def presented (i : Instr) (s : State) : State :=
  { s with
    phase := .idle
    port := { s.port with
              rst := false, hcValid := true, csel := selectorOf i, val := (operandOf i).getD 0x0000#16 } }

theorem withFetchWord_eq_presented {nbits w : Nat} {i : Instr} (h : decodeTableWord nbits w = some i) (s : State) :
    s.withFetchWord nbits w = presented i s := by
  simp [State.withFetchWord, h, presented]

theorem fetch_presented (i : Instr) (s : State) : fetch (presented i s) = some i :=
  (fetch_of_idle rfl rfl).trans (congrArg some (commandOf_selectorOf ..))

/-- Settles O20: the presented command is fetched, and its selector and operand name it again once they are in `CSEL` and
`VAL`. -/
theorem stepRunsTheFetchedWord : Obligations.StepRunsTheFetchedWord := by
  intro s nbits w i hw
  rw [withFetchWord_eq_presented hw]
  have hexec := exec_of_idle i (s := presented i s) rfl
  exact ⟨_, hexec, step_of_fetch rfl (fetch_presented i s) hexec, commandOf_selectorOf .., rfl⟩

/-- Settles O28, by the model's own equation for a command that is not in flight. -/
theorem otherCommandIsHeldOff : Obligations.OtherCommandIsHeldOff :=
  fun _ _ hb hi => exec_of_other (busy_iff.1 hb) hi

/-- Settles O39: no command is presented, so the block's step is a wait. -/
theorem idleBlockWaits : Obligations.IdleBlockWaits := by
  intro s hr hp hv
  simp [step_eq, blockNext, hr, hp, hv]

/-- Settles O37: each case of `blockNext_cases` is one transition of R24, with the record that its operation delivers. -/
theorem phaseTransitions : Obligations.PhaseTransitions := by
  intro s t h
  rw [step_next_iff.1 h, (nextMoment_fields _).1]
  show (_, (blockNext s).completions) = _
  rcases blockNext_cases s with ⟨hr, hb⟩ | ⟨hr, hb⟩
  · simp [hr, hb]
  · rcases hb with ⟨hp, hv, hb⟩ | ⟨hp, hv, hb⟩ | ⟨hp, hb⟩ | ⟨hp, ha, hb⟩ | ⟨hp, ha, hb⟩ | ⟨c, hp, ha, hb⟩ | ⟨hp, ha, hb⟩ |
      ⟨bs, src, hp, ha, hb⟩ | ⟨c, hp, ha, hb⟩ | ⟨hp, hl, hb⟩ | ⟨hp, hl, hb⟩
    · simp [hr, hp, hv, hb]
    · simp [hr, hp, hv, hb]
    · simp [hr, hp, hb]
    · simp [hr, hp, ha, hb]
    · simp [hr, hp, ha, hb]
    · simp [hr, hp, ha, hb, errorRecord]
    · simp [hr, hp, ha, hb]
    · simp [hr, hp, ha, hb]
    · simp [hr, hp, ha, hb, errorRecord]
    · simp [hr, hp, hl, hb, frameValue]
    · simp [hr, hp, hl, hb, errorRecord]

/-- The inputs of the moment are used up: what was offered at the port shows no more. -/
theorem nextMoment_of_moves {s : State} {f : State → State} (hf : Moves s f) (m : Inputs) :
    nextMoment (f { s with port := m }) = nextMoment (f s) := by
  cases hf with
  | reset | accept => rfl
  | advance hf => cases hf <;> rfl

/-- Settles O43: a busy block reads nothing of port `HC`, so it does the same operation. -/
theorem busyBlockIgnoresTheCommandPort : Obligations.BusyBlockIgnoresTheCommandPort := by
  intro s valid c v hbusy
  have hcue : SameCue s { s with port := { s.port with hcValid := valid, csel := c, val := v } } :=
    { sameCue_refl s with command := fun hp => absurd hp (busy_iff.1 hbusy) }
  obtain ⟨f, hf, hs, ht⟩ := hcue.moves
  rw [step_eq, step_eq, hs, ht, nextMoment_of_moves hf]

end Sys2Proof.Machine

/-! ## The decoder

A frame passes the checks of R70 exactly when the block could have built it: it is `requestFrame c v` for some selector
and value. With `frameBytes_requestFrame` this makes `decode` and `encode` inverse to each other. -/

namespace Sys2Proof.Machine

theorem checksum_toNat (b1 b2 b3 b4 b5 : Byte) :
    (checksum b1 b2 b3 b4 b5).toNat = (b1.toNat + b2.toNat + b3.toNat + b4.toNat + b5.toNat) % 256 := by
  simp [checksum, accAdd, BitVec.toNat_add]

@[simp] theorem cat16_hi8_lo8 (v : Value) : cat16 (hi8 v) (lo8 v) = v := by
  apply BitVec.eq_of_toNat_eq
  rw [cat16_toNat, hi8_toNat, lo8_toNat]
  omega

@[simp] theorem hi8_cat16 (h l : Byte) : hi8 (cat16 h l) = h := by
  apply BitVec.eq_of_toNat_eq
  rw [hi8_toNat, cat16_toNat]
  omega

@[simp] theorem lo8_cat16 (h l : Byte) : lo8 (cat16 h l) = l := by
  apply BitVec.eq_of_toNat_eq
  rw [lo8_toNat, cat16_toNat]
  omega

/-- The value of a request is the gated one (R105). -/
theorem frameValue_requestFrame (c : BitVec 3) (v : Value) :
    frameValue (requestFrame c v) = gateValue (lookup c).hasValue v := cat16_hi8_lo8 _

/-- A get-style command drops the value that gating cuts off. -/
theorem commandOf_gateValue (c : BitVec 3) (v : Value) :
    commandOf c (gateValue (lookup c).hasValue v) = commandOf c v := by
  cases c using forall_selector <;> rfl

theorem isRequest_iff {f : Frame} :
    f.isRequest = true ↔ syncOk f = true ∧ addrOk f = true ∧ cmd1Ok f = true ∧ opcodeOk f = true ∧
      checksumOk f = true ∧ getValueOk f = true := by
  simp only [Frame.isRequest, Bool.and_eq_true, and_assoc]

/-- The opcodes of R69 are those of the catalogue. -/
theorem exists_lookup_of_opcodeOk {f : Frame} (h : opcodeOk f = true) : ∃ c, f.opcode = (lookup c).opcode := by
  have hmem : f.opcode ∈ getOpcodes ++ setOpcodes := by simpa [opcodeOk] using h
  have hrow : ∀ op ∈ getOpcodes ++ setOpcodes, ∃ c, op = (lookup c).opcode := by decide
  exact hrow _ hmem

/-- The constants and the checksum leave ENCODE's two operands as the only freedom of a request. -/
theorem eq_encodeFrame_of_checks {f : Frame} (hsync : syncOk f = true) (haddr : addrOk f = true)
    (hcmd1 : cmd1Ok f = true) (hsum : checksumOk f = true) : f = encodeFrame f.opcode (frameValue f) := by
  obtain ⟨sync, addr, cmd1, op, hi, lo, sum⟩ := f
  simp only [syncOk, addrOk, cmd1Ok, checksumOk, beq_iff_eq] at hsync haddr hcmd1 hsum
  subst hsync haddr hcmd1
  simpa [encodeFrame, frameValue, frameChecksum] using hsum

theorem getValueOk_iff {f : Frame} :
    getValueOk f = true ↔ (f.opcode ∈ getOpcodes → f.valHi = 0x00#8 ∧ f.valLo = 0x00#8) := by
  simp [getValueOk, imp_iff_not_or]

/-- Gating takes nothing from the value of a frame that passes the check of R70. -/
theorem gateValue_frameValue {f : Frame} {c : BitVec 3} (hop : f.opcode = (lookup c).opcode)
    (hget : getValueOk f = true) :
    gateValue (lookup c).hasValue (frameValue f) = frameValue f := by
  cases hv : (lookup c).hasValue with
  | true => rfl
  | false =>
    have hmem : f.opcode ∈ getOpcodes := List.contains_iff_mem.1 (by rw [hop, (lookup_opcode c).2, hv]; rfl)
    obtain ⟨hhi, hlo⟩ := getValueOk_iff.1 hget hmem
    rw [frameValue, hhi, hlo]
    rfl

theorem eq_requestFrame_of_isRequest {f : Frame} {c : BitVec 3} (hop : f.opcode = (lookup c).opcode)
    (h : f.isRequest = true) : f = requestFrame c (frameValue f) := by
  obtain ⟨hsync, haddr, hcmd1, -, hsum, hget⟩ := isRequest_iff.1 h
  rw [requestFrame, gateValue_frameValue hop hget, ← hop]
  exact eq_encodeFrame_of_checks hsync haddr hcmd1 hsum

theorem getWithoutValue_eq_ok_iff {f : Frame} {i j : Instr} :
    getWithoutValue j f = .ok i ↔ getValueOk f = true ∧ j = i := by
  unfold getWithoutValue
  split <;> simp [*]

/-- The opcode's row names the command. A set-style opcode passes the check of the value as it stands. -/
theorem decodeOpcode_of_opcode {f : Frame} {c : BitVec 3} (hop : f.opcode = (lookup c).opcode) :
    decodeOpcode f = getWithoutValue (commandOf c (frameValue f)) f := by
  cases c using forall_selector with
  | h4 | h5 => simp [decodeOpcode, getWithoutValue, getValueOk, getOpcodes, hop, lookup, commandOf]
  | h0 | h1 | h2 | h3 | h6 | h7 => simp [decodeOpcode, hop, lookup, commandOf]

theorem guard_eq_ok_iff {ok : Bool} {e : DecodeError} {r : Except DecodeError Instr} {i : Instr} :
    (if !ok then .error e else r) = .ok i ↔ ok = true ∧ r = .ok i := by
  cases ok <;> simp

theorem decodeFrame_eq_ok_iff {f : Frame} {i : Instr} :
    decodeFrame f = .ok i ↔ syncOk f = true ∧ addrOk f = true ∧ cmd1Ok f = true ∧ opcodeOk f = true ∧
      checksumOk f = true ∧ decodeOpcode f = .ok i := by
  simp only [decodeFrame, guard_eq_ok_iff]

theorem decodeFrame_eq_ok_iff_isRequest {f : Frame} {i : Instr} :
    decodeFrame f = .ok i ↔
      f.isRequest = true ∧ ∃ c, f.opcode = (lookup c).opcode ∧ commandOf c (frameValue f) = i := by
  rw [decodeFrame_eq_ok_iff, isRequest_iff]
  constructor
  · rintro ⟨hsync, haddr, hcmd1, hopcode, hsum, hdec⟩
    obtain ⟨c, hop⟩ := exists_lookup_of_opcodeOk hopcode
    rw [decodeOpcode_of_opcode hop, getWithoutValue_eq_ok_iff] at hdec
    obtain ⟨hget, hcommand⟩ := hdec
    exact ⟨⟨hsync, haddr, hcmd1, hopcode, hsum, hget⟩, c, hop, hcommand⟩
  · rintro ⟨⟨hsync, haddr, hcmd1, hopcode, hsum, hget⟩, c, hop, hcommand⟩
    exact ⟨hsync, haddr, hcmd1, hopcode, hsum,
      (decodeOpcode_of_opcode hop).trans (getWithoutValue_eq_ok_iff.2 ⟨hget, hcommand⟩)⟩

theorem decode_eq_ok_iff {bs : List Byte} {i : Instr} :
    decode bs = .ok i ↔ ∃ f, bs = frameBytes f ∧ decodeFrame f = .ok i := by
  constructor
  · intro h
    unfold decode at h
    split at h
    · cases h
    next f hf => exact ⟨f, frameOfBytes_eq_some hf, h⟩
  · rintro ⟨f, rfl, h⟩
    exact h

/-- A reader of frames gets back the selector and the value that the block built the request from (R70, R106). -/
theorem decode_requestFrame (c : BitVec 3) (v : Value) :
    decode (frameBytes (requestFrame c v)) = .ok (commandOf c v) := by
  refine decodeFrame_eq_ok_iff_isRequest.2 ⟨requestFrame_isRequest c v, c, rfl, ?_⟩
  rw [frameValue_requestFrame, commandOf_gateValue]

/-- Settles O14: the row that the selector and the operand select is the command's own. -/
theorem blockBuildsTheTableFrame : Obligations.BlockBuildsTheTableFrame := by
  intro i v
  rw [frameBytes_requestFrame, commandOf_selectorOf]

/-- Settles O11: the encoding is the request the block builds, and that decodes to the command in flight. -/
theorem decodeOfEncode : Obligations.DecodeOfEncode := by
  intro i _
  rw [← blockBuildsTheTableFrame i 0x0000#16, decode_requestFrame, commandOf_selectorOf]

/-- Settles O12: a frame that passes the checks is the request of the command it decodes to. -/
theorem encodeOfDecode : Obligations.EncodeOfDecode := by
  intro bs i h
  obtain ⟨f, rfl, hf⟩ := decode_eq_ok_iff.1 h
  obtain ⟨hreq, c, hop, rfl⟩ := decodeFrame_eq_ok_iff_isRequest.1 hf
  calc frameBytes f = frameBytes (requestFrame c (frameValue f)) := congrArg _ (eq_requestFrame_of_isRequest hop hreq)
    _ = encode (commandOf c (frameValue f)) := frameBytes_requestFrame ..

/-- The bytes of a request (R70). -/
theorem exists_decode_iff {bs : List Byte} :
    (∃ i, decode bs = .ok i) ↔ ∃ f, bs = frameBytes f ∧ f.isRequest = true := by
  constructor
  · rintro ⟨i, h⟩
    obtain ⟨f, hbs, hf⟩ := decode_eq_ok_iff.1 h
    exact ⟨f, hbs, (decodeFrame_eq_ok_iff_isRequest.1 hf).1⟩
  · rintro ⟨f, rfl, hreq⟩
    obtain ⟨-, -, -, hopcode, -, -⟩ := isRequest_iff.1 hreq
    obtain ⟨c, hop⟩ := exists_lookup_of_opcodeOk hopcode
    exact ⟨_, decodeFrame_eq_ok_iff_isRequest.2 ⟨hreq, c, hop, rfl⟩⟩

theorem opcodeOk_iff {f : Frame} :
    opcodeOk f = true ↔ f.opcode ∈ [0x51#8, 0x53#8, 0x55#8, 0x57#8, 0x71#8, 0x73#8, 0x91#8, 0x9B#8] := by
  simp only [opcodeOk, getOpcodes, setOpcodes, Bool.or_eq_true, List.contains_iff_mem, List.mem_cons, List.not_mem_nil]
  tauto

theorem checksumOk_iff {f : Frame} :
    checksumOk f = true ↔
      f.cksum.toNat =
        (f.addr.toNat + f.cmd1.toNat + f.opcode.toNat + f.valHi.toNat + f.valLo.toNat) % 256 := by
  rw [checksumOk, beq_iff_eq, ← BitVec.toNat_inj, frameChecksum, checksum_toNat]

/-- Settles O13: the six checks of `Frame.isRequest`, each read as a condition on the bytes. -/
theorem requestsAreRecognised : Obligations.RequestsAreRecognised := by
  intro bs
  rw [exists_decode_iff]
  simp only [isRequest_iff, opcodeOk_iff, checksumOk_iff, getValueOk_iff, syncOk, addrOk, cmd1Ok, beq_iff_eq]
  constructor
  · rintro ⟨⟨_, _, _, b3, b4, b5, b6⟩, rfl, rfl, rfl, rfl, hop, hsum, hget⟩
    exact ⟨b3, b4, b5, b6, rfl, hop, hsum, hget⟩
  · rintro ⟨b3, b4, b5, b6, rfl, hop, hsum, hget⟩
    exact ⟨⟨0xFF#8, 0x01#8, 0x00#8, b3, b4, b5, b6⟩, rfl, rfl, rfl, rfl, hop, hsum, hget⟩

/-- Settles O50: by the invariant `TXF` holds the request of the command in flight. -/
theorem requestOutNamesTheCommand : Obligations.RequestOutNamesTheCommand := by
  intro s hinv hout
  obtain ⟨-, -, -, -, hheld, -, -⟩ := hinv
  rw [(hheld hout).1]
  exact decode_requestFrame ..

/-- Settles O15, by running the decoder on the five words. -/
theorem sampleWordsDecode : Obligations.SampleWordsDecode := by
  unfold Obligations.SampleWordsDecode
  decide

end Sys2Proof.Machine

/-! ## A command's exchange -/

namespace Sys2Proof.Machine

theorem exec_of_encode {i : Instr} {s : State} (hp : s.phase = .encode) (hi : s.inFlight = i) :
    exec i s = .next (buildAndSend s) := by
  rw [exec_of_inFlight (by simp [hp]) hi, advance_encode hp]

theorem exec_of_sent {i : Instr} {s : State} (hp : s.phase = .send) (hi : s.inFlight = i)
    (h : s.port.tsAnswer = some .sent) : exec i s = .next (awaitReply s) := by
  rw [exec_of_inFlight (by simp [hp]) hi, advance_send hp, sendAnswer, h]
  rfl

theorem exec_of_dgram {i : Instr} {s : State} {bs : List Byte} {src : Endpoint} (hp : s.phase = .await)
    (hi : s.inFlight = i) (h : s.port.trEvent = some (.dgram bs src)) : exec i s = .next (receiveDatagram bs s) := by
  rw [exec_of_inFlight (by simp [hp]) hi, advance_await hp, receive, h]

theorem exec_of_seven {i : Instr} {s : State} (hp : s.phase = .decode) (hi : s.inFlight = i) (h : s.rxlen = 7) :
    exec i s = .next (completeOk (frameValue s.rxf) s) := by
  rw [exec_of_inFlight (by simp [hp]) hi, advance_decode hp, decodeAndComplete, if_pos h]

/-- Accepted, built, sent, received and decoded: no operation of the exchange touches the command in flight or the
ports, so each next one is enabled. -/
theorem exchangeRuns_exchanged (i : Instr) {s : State} {f : Frame} {src : Endpoint} (hp : s.phase = .idle)
    (hsent : s.port.tsAnswer = some .sent) (hreply : s.port.trEvent = some (.dgram (frameBytes f) src)) :
    ExchangeRuns i s (exchanged i f s) := by
  have hi : commandOf (selectorOf i) ((operandOf i).getD s.port.val) = i := commandOf_selectorOf ..
  exact ⟨_, _, _, _, exec_of_idle i hp, exec_of_encode rfl hi, exec_of_sent rfl hi hsent, exec_of_dgram rfl hi hreply,
    exec_of_seven rfl hi rfl⟩

/-- Settles O31: each phase of the exchange does its operation, and the request presented is the command's row. -/
theorem everyCommandCompletes : Obligations.EveryCommandCompletes := by
  intro i s f src hp hsent hreply
  exact ⟨exchangeRuns_exchanged i hp hsent hreply, _, rfl, blockBuildsTheTableFrame ..⟩

end Sys2Proof.Machine

/-! ## The codec's arithmetic

CHECKSUM is a fold of 8-bit additions, so it depends on its bytes through their sum alone. DECODE reads a frame's value
field, and `cat16` loses nothing of the two bytes it joins. -/

namespace Sys2Proof.Machine

/-- Reducing at each addition is reducing once at the end (R84). -/
theorem foldl_accAdd (l : List Byte) (acc : Byte) :
    l.foldl accAdd acc = acc + BitVec.ofNat 8 (l.map BitVec.toNat).sum := by
  induction l generalizing acc with
  | nil => simp
  | cons b l ih => simp [ih, accAdd, BitVec.ofNat_add, BitVec.add_assoc]

theorem checksum_eq_ofNat_sum (b1 b2 b3 b4 b5 : Byte) :
    checksum b1 b2 b3 b4 b5 = BitVec.ofNat 8 ([b1, b2, b3, b4, b5].map BitVec.toNat).sum :=
  (foldl_accAdd [b1, b2, b3, b4, b5] 0x00#8).trans (BitVec.zero_add _)

theorem decodeReply_frameBytes (f : Frame) : decodeReply (frameBytes f) = some (frameValue f) := rfl

theorem decodeReply_eq_none (bs : List Byte) : decodeReply bs = none ↔ bs.length ≠ 7 := by
  rw [decodeReply, Option.map_eq_none_iff, frameOfBytes_eq_none]

theorem frameValue_encodeFrame (op : Byte) (v : Value) : frameValue (encodeFrame op v) = v := cat16_hi8_lo8 v

theorem exists_frameBytes_of_length {bs : List Byte} (h : bs.length = 7) : ∃ f, bs = frameBytes f := by
  obtain ⟨f, hf⟩ := Option.isSome_iff_exists.1 ((frameOfBytes_isSome bs).2 h)
  exact ⟨f, frameOfBytes_eq_some hf⟩

theorem cat16_inj {h l h' l' : Byte} : cat16 h l = cat16 h' l' ↔ h = h' ∧ l = l' := by
  constructor
  · intro heq
    exact ⟨by simpa using congrArg hi8 heq, by simpa using congrArg lo8 heq⟩
  · rintro ⟨rfl, rfl⟩
    rfl

/-- Settles O1. -/
theorem checksumIsSumModulo256 : Obligations.ChecksumIsSumModulo256 := checksum_toNat

/-- Settles O2: a permutation has the same sum. -/
theorem checksumIgnoresOrder : Obligations.ChecksumIgnoresOrder := by
  intro b1 b2 b3 b4 b5 l hperm
  have hsum : BitVec.ofNat 8 (l.map BitVec.toNat).sum = checksum b1 b2 b3 b4 b5 := by
    rw [checksum_eq_ofNat_sum, (hperm.map BitVec.toNat).sum_eq]
  exact ⟨by rw [foldl_accAdd, hsum, BitVec.zero_add], hsum⟩

/-- Settles O3. -/
theorem encodeWritesTheSevenFields : Obligations.EncodeWritesTheSevenFields := by
  intro op v
  refine ⟨rfl, rfl, rfl, rfl, hi8_toNat v, lo8_toNat v, ?_⟩
  rw [encodeFrame, checksum_toNat, hi8_toNat, lo8_toNat]
  rfl

/-- Settles O4: a frame gives both operands back, the opcode as a field and the value as the value field. -/
theorem encodeIsInjective : Obligations.EncodeIsInjective := by
  refine ⟨fun op op' v v' h => ⟨congrArg Frame.opcode h, ?_⟩, fun _ _ => ⟨rfl, rfl⟩⟩
  simpa only [frameValue_encodeFrame] using congrArg frameValue h

/-- Settles O5: the seven turns overwrite every byte of `TXF`, and `ACC` starts cleared. -/
theorem serialEncodeAgrees : Obligations.SerialEncodeAgrees := fun _ _ _ => rfl

/-- Settles O6. -/
theorem decodeOfEncodedFrame : Obligations.DecodeOfEncodedFrame := by
  intro op v
  rw [decodeReply_frameBytes, frameValue_encodeFrame]

/-- Settles O7: DECODE takes the checksum plus one for a seventh byte as well as any other. -/
theorem encodedFramesSumUp : Obligations.EncodedFramesSumUp := by
  constructor
  · intro op v
    exact ⟨_, _, _, _, _, _, _, rfl, checksum_toNat ..⟩
  · intro b0 b1 b2 b3 b4 b5
    refine ⟨checksum b1 b2 b3 b4 b5 + 1#8, ?_, rfl⟩
    rw [← checksum_toNat, Ne, BitVec.toNat_inj]
    simp

/-- Settles O8: in numbers the split is division by 256 with remainder. -/
theorem splitAndJoin : Obligations.SplitAndJoin := by
  refine ⟨fun v => ⟨?_, cat16_hi8_lo8 v⟩, fun h l => ⟨?_, hi8_cat16 h l, lo8_cat16 h l⟩, fun h l hbit => ?_⟩
  · rw [hi8_toNat, lo8_toNat, Nat.div_add_mod]
  · rw [cat16_toNat, Nat.mul_comm]
  · rw [cat16_toNat]
    omega

/-- Settles O9. -/
theorem decodeNeedsExactlySevenBytes : Obligations.DecodeNeedsExactlySevenBytes :=
  ⟨decodeReply_eq_none, fun _ _ _ _ b4 b5 _ => ⟨rfl, cat16_toNat b4 b5⟩⟩

/-- Settles O10: seven bytes are a frame, and its value determines the two bytes of the value field. -/
theorem decodeSeesTheValueBytesAlone : Obligations.DecodeSeesTheValueBytesAlone := by
  intro bs bs' hlen hlen'
  obtain ⟨f, rfl⟩ := exists_frameBytes_of_length hlen
  obtain ⟨g, rfl⟩ := exists_frameBytes_of_length hlen'
  calc decodeReply (frameBytes f) = decodeReply (frameBytes g)
      ↔ frameValue f = frameValue g := Option.some_inj
    _ ↔ f.valHi = g.valHi ∧ f.valLo = g.valLo := cat16_inj
    _ ↔ (frameBytes f)[4]? = (frameBytes g)[4]? ∧ (frameBytes f)[5]? = (frameBytes g)[5]? := by simp [frameBytes]

end Sys2Proof.Machine

/-! ## The rows of the catalogue -/

namespace Sys2Proof.Machine

/-- Settles O16: each row is the arm of `lookup` that the literal selector picks; the last is its default arm. -/
theorem catalogueRows : Obligations.CatalogueRows :=
  ⟨rfl, rfl, rfl, rfl, rfl, rfl, rfl, rfl⟩

end Sys2Proof.Machine

/-! ## The dispatcher's steps

What the exchange in flight does in each case of its phase. `exec` of the command in flight and a step of the machine are
both read off from it. -/

namespace Sys2Proof.Machine

theorem advance_of_sent {s : State} (hp : s.phase = .send) (h : s.port.tsAnswer = some .sent) :
    advance s = awaitReply s := by
  rw [advance_send hp, sendAnswer, h]
  rfl

theorem advance_of_sendFailed {s : State} {cause : IoCause} (hp : s.phase = .send)
    (h : s.port.tsAnswer = some (.fail cause)) : advance s = raise (.sendFailed cause) s := by
  rw [advance_send hp, sendAnswer, h]

theorem advance_of_sendUnanswered {s : State} (hp : s.phase = .send) (h : s.port.tsAnswer = none) : advance s = s := by
  rw [advance_send hp, sendAnswer, h]

theorem advance_of_dgram {s : State} {bs : List Byte} {src : Endpoint} (hp : s.phase = .await)
    (h : s.port.trEvent = some (.dgram bs src)) : advance s = receiveDatagram bs s := by
  rw [advance_await hp, receive, h]

theorem advance_of_receiveFailed {s : State} {cause : IoCause} (hp : s.phase = .await)
    (h : s.port.trEvent = some (.fail cause)) : advance s = raise (.receiveFailed cause) s := by
  rw [advance_await hp, receive, h]

theorem advance_of_receiveUnanswered {s : State} (hp : s.phase = .await) (h : s.port.trEvent = none) :
    advance s = s := by
  rw [advance_await hp, receive, h]

theorem advance_of_malformed {s : State} (hp : s.phase = .decode) (h : s.rxlen ≠ 7) :
    advance s = raise .malformedReply s := by
  rw [advance_decode hp, decodeAndComplete, if_neg h]

theorem stepNext_of_reset {s : State} (hr : s.port.rst = true) : stepNext s = nextMoment (takeReset s) := by
  simp [stepNext, blockNext, hr]

theorem stepNext_of_presented {s : State} (hr : s.port.rst = false) (hp : s.phase = .idle)
    (hv : s.port.hcValid = true) : stepNext s = nextMoment (accept s.port.csel s.port.val s) := by
  simp [stepNext, blockNext, hr, hp, hv]

/-- A busy block advances its exchange; `h` is one of the lemmas above, or `advance_encode` or `advance_decode`. -/
theorem stepNext_of_advance {s t : State} (hr : s.port.rst = false) (hp : s.phase ≠ .idle) (h : advance s = t) :
    stepNext s = nextMoment t := by
  simp [stepNext, blockNext, hr, hp, h]

/-- Only ACCEPT leads to ENCODE (R24): an exchange in flight leaves that phase and does not come back to it. -/
theorem advance_phase_ne_encode (s : State) : (advance s).phase ≠ .encode := by
  by_cases he : s.phase = .encode
  · simp [advance_encode he]
  · obtain ⟨f, hf, ha⟩ := advance_eq s
    rw [ha]
    cases hf with
    | wait => exact he
    | buildAndSend | awaitReply | receive | error | ok => exact nofun

theorem exec_exists (i : Instr) (s : State) : ∃ t, exec i s = .next t := by
  rw [exec_eq, exchangeStep]
  split
  · exact ⟨_, rfl⟩
  · split <;> exact ⟨_, rfl⟩

/-- A step reads the ports of its moment through `SameCue` alone. -/
theorem stepNext_eq_of_sameCue {s : State} {m : Inputs} (h : SameCue s { s with port := m }) :
    stepNext s = stepNext { s with port := m } := by
  obtain ⟨f, hf, hs, ht⟩ := h.moves
  rw [stepNext, stepNext, hs, ht, nextMoment_of_moves hf m]

/-- Settles O38. -/
theorem noStateStopsTheMachine : Obligations.NoStateStopsTheMachine := fun s => ⟨_, step_eq s⟩

/-- Settles O22. -/
theorem execAcceptsWhenIdle : Obligations.ExecAcceptsWhenIdle := fun i _ hp => exec_of_idle i hp

/-- Settles O21: a presented command is accepted, and a busy block advances its exchange. -/
theorem acceptStep : Obligations.AcceptStep := by
  intro s hr
  constructor
  · intro hp hv
    exact (step_eq s).trans (congrArg _ (stepNext_of_presented hr hp hv))
  · intro hp
    have hkept : KeepsFrame s (advance s) := by
      obtain ⟨f, hf, ha⟩ := advance_eq s
      exact ha ▸ keepsFrame_of_advances hf
    obtain ⟨hcsel, hval⟩ := hkept.command hp
    refine ⟨nextMoment (advance s), ?_, hcsel, hval, advance_phase_ne_encode s⟩
    exact (step_eq s).trans (congrArg _ (stepNext_of_advance hr hp rfl))

/-- Settles O23: the datagrams presented stay by the frame of `exec` in every other phase. -/
theorem buildAndSendStep : Obligations.BuildAndSendStep := by
  intro i s
  constructor
  · intro hp hi
    exact ⟨6, exec_of_encode hp hi⟩
  · intro hp
    obtain ⟨t, ht⟩ := exec_exists i s
    obtain ⟨-, -, hrequest, -⟩ := execFrame i s t ht
    obtain ⟨-, -, -, hsent⟩ := hrequest hp
    exact ⟨t, ht, hsent⟩

/-- Settles O24: either answer is taken. -/
theorem sendAnswerStep : Obligations.SendAnswerStep := by
  intro i s hp hi
  refine ⟨exec_of_sent hp hi, fun cause h => ?_⟩
  rw [exec_of_inFlight (by simp [hp]) hi, advance_of_sendFailed hp h]
  rfl

/-- Settles O25: bytes spell a frame for `RXF` exactly when there are seven. -/
theorem receiveStep : Obligations.ReceiveStep := by
  intro i s bs src hp hi h
  rw [exec_of_dgram hp hi h]
  constructor
  · rintro b0 b1 b2 b3 b4 b5 b6 rfl
    rfl
  · intro hlen
    rw [receiveDatagram, (frameOfBytes_eq_none bs).2 hlen]
    rfl

/-- Settles O26: a failure completes the exchange, and without an event the block waits. -/
theorem receiveFailStep : Obligations.ReceiveFailStep := by
  intro i s hp hi
  rw [exec_of_inFlight (by simp [hp]) hi]
  constructor
  · intro cause h
    rw [advance_of_receiveFailed hp h]
    rfl
  · intro h
    rw [advance_of_receiveUnanswered hp h]

/-- Settles O27: the length received decides between the two completions. -/
theorem decodeAndCompleteStep : Obligations.DecodeAndCompleteStep := by
  intro i s hp hi
  refine ⟨exec_of_seven hp hi, fun hlen => ?_⟩
  rw [exec_of_inFlight (by simp [hp]) hi, advance_of_malformed hp hlen]
  rfl

/-- The transport offers this event on port `TR` (R34). -/
def offering (event : ReceiveEvent) (s : State) : State := { s with port := { s.port with trEvent := some event } }

/-- A reset and the phases other than `AWAIT` read no event, and RECEIVE drops the sender. -/
theorem stepNext_offering_sender (bs : List Byte) (src src' : Endpoint) (s : State) :
    stepNext (offering (.dgram bs src) s) = stepNext (offering (.dgram bs src') s) := by
  cases hr : s.port.rst with
  | true =>
    have hreset (src : Endpoint) : stepNext (offering (.dgram bs src) s) = nextMoment (takeReset s) :=
      stepNext_of_reset (s := offering (.dgram bs src) s) hr
    rw [hreset, hreset]
  | false =>
    by_cases hp : s.phase = .await
    · have hreceive (src : Endpoint) : stepNext (offering (.dgram bs src) s) = nextMoment (receiveDatagram bs s) := by
        have hadv : advance (offering (.dgram bs src) s) = receiveDatagram bs (offering (.dgram bs src) s) :=
          advance_of_dgram hp rfl
        exact (stepNext_of_advance (s := offering (.dgram bs src) s) hr (by simp [offering, hp]) hadv :)
      rw [hreceive, hreceive]
    · exact stepNext_eq_of_sameCue { sameCue_refl (offering (.dgram bs src) s) with event := fun h => absurd h hp }

/-- Settles O45. -/
theorem senderIsIgnored : Obligations.SenderIsIgnored := fun s bs src src' =>
  calc step (offering (.dgram bs src) s) = .next (stepNext (offering (.dgram bs src) s)) := step_eq _
    _ = .next (stepNext (offering (.dgram bs src') s)) := congrArg _ (stepNext_offering_sender bs src src' s)
    _ = step (offering (.dgram bs src') s) := (step_eq _).symm

/-- Settles O18: the value field of a request is the gated value, and the catalogue's flags are those of R93. -/
theorem valueIsGated : Obligations.ValueIsGated := by
  intro v
  constructor
  · intro c hc
    have hset : ∀ c ∈ [4#3, 5#3], (lookup c).hasValue = true := by decide
    rw [frameValue_requestFrame, hset c hc]
    rfl
  · intro c hc
    have hget : ∀ c ∈ [0#3, 1#3, 2#3, 3#3, 6#3, 7#3], (lookup c).hasValue = false := by decide
    rw [requestFrame_of_get (hget c hc)]
    exact ⟨rfl, rfl⟩

end Sys2Proof.Machine

/-! ## One datagram for each completion (R112) -/

namespace Sys2Proof.Machine

/-- From `s` to `t` as many datagrams are presented as records delivered, the exchange whose request is out counted as
one record to come. -/
def KeepsBalance (s t : State) : Prop :=
  t.sent.length + s.completions.length + (if s.requestOut then 1 else 0) =
    s.sent.length + t.completions.length + (if t.requestOut then 1 else 0)

/-- A request goes out with its datagram, and comes back with its record. -/
theorem keepsBalance_of_advances {s : State} {f : State → State} (hf : Advances s f) : KeepsBalance s (f s) := by
  unfold KeepsBalance
  cases hf with
  | wait => rfl
  | buildAndSend hp => simp +arith [requestOut_iff, hp]
  | awaitReply hp => simp [requestOut_iff, hp, awaitReply]
  | receive hp bs => simp [requestOut_iff, hp]
  | error ho e => simp +arith [ho, requestOut_iff (s := raise e s)]
  | ok hp v => simp +arith [requestOut_iff, hp]

/-- Settles O48: without a reset a step is ACCEPT, with no request out before or after, or an advance of the exchange. -/
theorem oneDatagramPerCompletion : Obligations.OneDatagramPerCompletion := by
  intro s t hr hst
  obtain ⟨f, hf, hb⟩ := blockNext_eq s
  obtain rfl : t = nextMoment (f s) := hb ▸ step_next_iff.1 hst
  show KeepsBalance s (f s)
  cases hf with
  | reset h => simp [hr] at h
  | accept hp c v => simp [KeepsBalance, requestOut_iff, hp]
  | advance hf => exact keepsBalance_of_advances hf

end Sys2Proof.Machine

/-! ## Whole exchanges, command by command -/

namespace Sys2Proof.Machine

/-- What every command's exchange ends with, read off from `exchanged`. -/
theorem exists_exchangeRuns (i : Instr) {s : State} {b0 b1 b2 b3 b4 b5 b6 : Byte} {src : Endpoint} (hp : s.phase = .idle)
    (hsent : s.port.tsAnswer = some .sent) (hreply : s.port.trEvent = some (.dgram [b0, b1, b2, b3, b4, b5, b6] src)) :
    ∃ t, ExchangeRuns i s t ∧ t.csel = selectorOf i ∧
      t.sent = s.sent ++ [⟨requestFrame (selectorOf i) ((operandOf i).getD s.port.val), s.ep⟩] ∧
      t.completions = s.completions ++ [.ok (cat16 b4 b5)] ∧ t.result = some (cat16 b4 b5) ∧
      t.rvalid = true ∧ t.status = 0#2 ∧ t.busy = false :=
  ⟨exchanged i ⟨b0, b1, b2, b3, b4, b5, b6⟩ s, exchangeRuns_exchanged i hp hsent hreply, rfl, rfl, rfl, rfl, rfl, rfl, rfl⟩

/-- A row of the tables R113 to R120: a get-style command, its selector, and the one frame it ever sends. -/
abbrev IsReadRow (p : Instr × BitVec 3 × Frame) : Prop :=
  selectorOf p.1 = p.2.1 ∧ (lookup p.2.1).hasValue = false ∧ encodeFrame (lookup p.2.1).opcode 0x0000#16 = p.2.2

theorem requestFrame_of_isReadRow {p : Instr × BitVec 3 × Frame} (h : IsReadRow p) (v : Value) :
    requestFrame p.2.1 v = p.2.2 := by
  obtain ⟨-, hget, hframe⟩ := h
  rw [requestFrame_of_get hget, hframe]

/-- Settles O32: the four rows are read rows, so the frame is the row's whatever the value lines hold. -/
theorem positionReadsComplete : Obligations.PositionReadsComplete := by
  intro s b0 b1 b2 b3 b4 b5 b6 src hp hsent hreply p hmem
  have hrow : IsReadRow p := by
    revert p
    decide
  simpa only [hrow.1, requestFrame_of_isReadRow hrow] using exists_exchangeRuns p.1 hp hsent hreply

/-- Settles O34: as for the position reads, and `cat16` joins the two bytes unsigned. -/
theorem sensorReadsComplete : Obligations.SensorReadsComplete := by
  intro s b0 b1 b2 b3 b4 b5 b6 src hp hsent hreply p hmem
  have hrow : IsReadRow p := by
    revert p
    decide
  obtain ⟨t, hrun, hcsel, hframe, hrecord, hresult, hflags⟩ := exists_exchangeRuns p.1 hp hsent hreply
  rw [hrow.1, requestFrame_of_isReadRow hrow] at hframe
  exact ⟨t, hrun, hcsel.trans hrow.1, hframe, ⟨_, hrecord, hresult, cat16_toNat b4 b5⟩, hflags⟩

/-- Settles O33: both rows send the operand as it is, and the checksum adds it to the constants. -/
theorem positionSetsComplete : Obligations.PositionSetsComplete := by
  intro s val b0 b1 b2 b3 b4 b5 b6 src hp hsent hreply p hmem
  simp only [List.mem_cons, List.not_mem_nil, or_false] at hmem
  rcases hmem with rfl | rfl
  all_goals
    obtain ⟨t, hrun, hcsel, hframe, houtcome⟩ := exists_exchangeRuns _ hp hsent hreply
    exact ⟨t, _, hrun, hcsel, hframe, checksum_toNat .., houtcome⟩

theorem exchangeRuns_unique {i : Instr} {s t t' : State} (h : ExchangeRuns i s t) (h' : ExchangeRuns i s t') : t = t' := by
  obtain ⟨s₁, s₂, s₃, s₄, h₁, h₂, h₃, h₄, h₅⟩ := h
  obtain ⟨s₁', s₂', s₃', s₄', h₁', h₂', h₃', h₄', h₅'⟩ := h'
  obtain rfl : s₁ = s₁' := by simpa [h₁] using h₁'
  obtain rfl : s₂ = s₂' := by simpa [h₂] using h₂'
  obtain rfl : s₃ = s₃' := by simpa [h₃] using h₃'
  obtain rfl : s₄ = s₄' := by simpa [h₄] using h₄'
  simpa [h₅] using h₅'

/-- Settles O36: both exchanges end as `exchanged` says, which takes nothing from the reply but its value field. -/
theorem replyValueAloneDecidesTheResult : Obligations.ReplyValueAloneDecidesTheResult := by
  intro i i' s s' t t' f f' src src' hp hp' hsent hsent' hreply hreply' hhi hlo hrun hrun'
  obtain rfl := exchangeRuns_unique hrun (exchangeRuns_exchanged i hp hsent hreply)
  obtain rfl := exchangeRuns_unique hrun' (exchangeRuns_exchanged i' hp' hsent' hreply')
  simp [exchanged, hhi, hlo]

end Sys2Proof.Machine

/-! ## Runs along a list of moments

A block and the moments still to come are two things: `withMoments ms s` is the block `s` that meets the moments `ms`.
A step takes the first moment off the list, and what it does to the block is the phase's operation. -/

namespace Sys2Proof.Machine

/-- The block as it is, with these moments before it (log entry 2). -/
def withMoments (ms : List Inputs) (s : State) : State :=
  { s with port := ms.headD Inputs.silent, future := ms.tail }

/-- A state is the block that meets its own moments. -/
theorem withMoments_of_future {ms : List Inputs} {s : State} (h : s.future = ms) :
    withMoments (s.port :: ms) s = s := by
  subst h
  rfl

theorem run_trans {j k n : Nat} {s t u : State} (h : run j s = .next t) (h' : run k t = .next u) (hn : n = j + k) :
    run n s = .next u := by
  rw [hn, run_add j k s t h, h']

theorem run_snoc {k n : Nat} {s t u : State} (h : run k s = .next t) (h' : stepNext t = u) (hn : n = k + 1) :
    run n s = .next u :=
  run_trans h ((run_succ 0 t).trans (congrArg _ h')) hn

/-- The phase's answer does not come at this moment, nor does a reset. -/
def WaitsAt (m : Inputs) (s : State) : Prop :=
  m.rst = false ∧ (s.phase = .await ∧ m.trEvent = none ∨ s.phase = .send ∧ m.tsAnswer = none)

theorem waitsAt_busy {m : Inputs} {s : State} (h : WaitsAt m s) : s.phase ≠ .idle := by
  obtain ⟨-, ⟨hp, -⟩ | ⟨hp, -⟩⟩ := h <;> simp [hp]

/-- Unanswered, a step only takes the moment off the list. -/
theorem stepNext_of_waitsAt {ms : List Inputs} {s : State} (h : WaitsAt (ms.headD Inputs.silent) s) :
    stepNext (withMoments ms s) = withMoments ms.tail s := by
  have hadv : advance (withMoments ms s) = withMoments ms s := by
    obtain ⟨-, ⟨hp, hnone⟩ | ⟨hp, hnone⟩⟩ := h
    · exact advance_of_receiveUnanswered hp hnone
    · exact advance_of_sendUnanswered hp hnone
  exact stepNext_of_advance (s := withMoments ms s) h.1 (waitsAt_busy h) hadv

/-- A block waits as long as every moment leaves it unanswered, those after the end of the list too. -/
theorem run_of_waitsAt {k : Nat} {ms : List Inputs} {s : State} (h : ∀ j < k, WaitsAt (ms.getD j Inputs.silent) s) :
    run k (withMoments ms s) = .next (withMoments (ms.drop k) s) := by
  induction k generalizing ms with
  | zero => rfl
  | succ k ih =>
    have hhead : WaitsAt (ms.headD Inputs.silent) s := by
      simpa [List.headD_eq_head?_getD, List.head?_eq_getElem?] using h 0 k.succ_pos
    have htail : ∀ j < k, WaitsAt (ms.tail.getD j Inputs.silent) s := fun j hj => by
      simpa using h (j + 1) (Nat.succ_lt_succ hj)
    rw [run_succ, stepNext_of_waitsAt hhead, ih htail, List.drop_tail]

/-- A wait in the list is passed in as many steps as it has moments. -/
theorem run_past_wait {w ms : List Inputs} {s : State} (h : ∀ m ∈ w, WaitsAt m s) :
    run w.length (withMoments (w ++ ms) s) = .next (withMoments ms s) := by
  have hw : ∀ j < w.length, WaitsAt ((w ++ ms).getD j Inputs.silent) s := fun j hj => by
    simpa [List.getElem?_append_left hj, hj] using h _ (List.getElem_mem hj)
  rw [run_of_waitsAt hw, List.drop_left]

/-- Settles O40: the listed moments leave the block unanswered, and so does the silence after them. -/
theorem unansweredBlockWaitsForEver : Obligations.UnansweredBlockWaitsForEver := by
  intro s hreset hquiet k
  have hlisted : ∀ m ∈ s.moments, WaitsAt m s := fun m hm =>
    ⟨hreset m hm, hquiet.imp (fun ⟨hp, h⟩ => ⟨hp, h m hm⟩) (fun ⟨hp, h⟩ => ⟨hp, h m hm⟩)⟩
  have hsilent : WaitsAt Inputs.silent s :=
    ⟨rfl, hquiet.imp (fun ⟨hp, _⟩ => ⟨hp, rfl⟩) (fun ⟨hp, _⟩ => ⟨hp, rfl⟩)⟩
  have hwait : ∀ j, WaitsAt (s.moments.getD j Inputs.silent) s := fun j => by
    by_cases hj : j < s.moments.length
    · simpa [hj] using hlisted _ (List.getElem_mem hj)
    · simpa [hj] using hsilent
  exact ⟨_, run_of_waitsAt fun j _ => hwait j, rfl, busy_iff.2 (waitsAt_busy hsilent)⟩

end Sys2Proof.Machine

/-! ## EXCHANGE, step by step

The run of an exchange is cut where the transport answers: up to the send's answer, up to the receive's, and one or two
steps to the record. -/

namespace Sys2Proof.Machine

/-- The block that has accepted the command of a moment and sent its request. -/
def requested (m : Inputs) (s : State) : State := buildAndSend (accept m.csel m.val s)

theorem decodeAndComplete_frame (s : State) :
    (decodeAndComplete s).phase = .idle ∧ (decodeAndComplete s).sent = s.sent ∧
      (decodeAndComplete s).future = s.future := by
  unfold decodeAndComplete
  split <;> exact ⟨rfl, rfl, rfl⟩

/-- RECEIVE and DECODE-AND-COMPLETE deliver the record that DECODE makes of the bytes, as EXCHANGE does (R85, R110). -/
theorem decodeAndComplete_completions (bs : List Byte) (s : State) (c : BitVec 3) (v : Value) (src : Endpoint) :
    (decodeAndComplete (receiveDatagram bs s)).completions =
      s.completions ++ [(exchange c v .sent (.dgram bs src)).2] := by
  by_cases hlen : bs.length = 7
  · obtain ⟨f, rfl⟩ := exists_frameBytes_of_length hlen
    rfl
  · simp [decodeAndComplete, exchange, (decodeReply_eq_none bs).2 hlen, hlen, errorRecord]

section
variable {m e a r d : Inputs} {w₁ w₂ ms : List Inputs} {s : State} (hp : s.phase = .idle) (hv : m.hcValid = true)
  (hm : m.rst = false) (he : e.rst = false) (hr₁ : NoReset w₁) (hw₁ : SendUnanswered w₁)

include hp hv hm he hr₁ hw₁

/-- From the command presented to the send's answer. -/
theorem run_to_sendAnswer :
    run (2 + w₁.length) (withMoments (m :: e :: (w₁ ++ ms)) s) = .next (withMoments ms (requested m s)) := by
  have haccept : run 1 (withMoments (m :: e :: (w₁ ++ ms)) s) =
      .next (withMoments (e :: (w₁ ++ ms)) (accept m.csel m.val s)) :=
    run_snoc (run_zero _) (stepNext_of_presented hm hp hv) rfl
  have hbuild : run 2 (withMoments (m :: e :: (w₁ ++ ms)) s) = .next (withMoments (w₁ ++ ms) (requested m s)) :=
    run_snoc haccept (stepNext_of_advance he (by nofun) (advance_encode rfl)) rfl
  exact run_trans hbuild (run_past_wait fun n hn => ⟨hr₁ n hn, .inr ⟨rfl, hw₁ n hn⟩⟩) rfl

/-- From the command presented to the end, when the send fails. -/
theorem run_to_sendFailed {cause : IoCause} (ha : a.rst = false) (hfail : a.tsAnswer = some (.fail cause)) :
    run (3 + w₁.length) (withMoments (m :: e :: (w₁ ++ a :: ms)) s) =
      .next (withMoments ms (raise (.sendFailed cause) (requested m s))) :=
  run_snoc (run_to_sendAnswer hp hv hm he hr₁ hw₁) (stepNext_of_advance ha (by nofun) (advance_of_sendFailed rfl hfail))
    (by omega)

variable (ha : a.rst = false) (hsent : a.tsAnswer = some .sent) (hr₂ : NoReset w₂) (hw₂ : ReceiveUnanswered w₂)

include ha hsent hr₂ hw₂

/-- From the command presented, past a send that succeeds, to the receive's answer. -/
theorem run_to_receiveEvent :
    run (3 + w₁.length + w₂.length) (withMoments (m :: e :: (w₁ ++ a :: (w₂ ++ ms))) s) =
      .next (withMoments ms (awaitReply (requested m s))) := by
  have hsend : run (3 + w₁.length) (withMoments (m :: e :: (w₁ ++ a :: (w₂ ++ ms))) s) =
      .next (withMoments (w₂ ++ ms) (awaitReply (requested m s))) :=
    run_snoc (run_to_sendAnswer hp hv hm he hr₁ hw₁) (stepNext_of_advance ha (by nofun) (advance_of_sent rfl hsent))
      (by omega)
  exact run_trans hsend (run_past_wait fun n hn => ⟨hr₂ n hn, .inl ⟨rfl, hw₂ n hn⟩⟩) rfl

/-- From the command presented to the end, when the receive fails. -/
theorem run_to_receiveFailed {cause : IoCause} (hr : r.rst = false) (hfail : r.trEvent = some (.fail cause)) :
    run (4 + w₁.length + w₂.length) (withMoments (m :: e :: (w₁ ++ a :: (w₂ ++ r :: ms))) s) =
      .next (withMoments ms (raise (.receiveFailed cause) (awaitReply (requested m s)))) :=
  run_snoc (run_to_receiveEvent hp hv hm he hr₁ hw₁ ha hsent hr₂ hw₂)
    (stepNext_of_advance hr (by nofun) (advance_of_receiveFailed rfl hfail)) (by omega)

/-- From the command presented to the end, when a datagram comes. -/
theorem run_to_reply {bs : List Byte} {src : Endpoint} (hr : r.rst = false) (hd : d.rst = false)
    (hreply : r.trEvent = some (.dgram bs src)) :
    run (5 + w₁.length + w₂.length) (withMoments (m :: e :: (w₁ ++ a :: (w₂ ++ r :: d :: ms))) s) =
      .next (nextMoment (decodeAndComplete
        (receiveDatagram bs (withMoments (d :: ms) (awaitReply (requested m s)))))) := by
  have hreceive : run (4 + w₁.length + w₂.length) (withMoments (m :: e :: (w₁ ++ a :: (w₂ ++ r :: d :: ms))) s) =
      .next (receiveDatagram bs (withMoments (d :: ms) (awaitReply (requested m s)))) :=
    run_snoc (run_to_receiveEvent hp hv hm he hr₁ hw₁ ha hsent hr₂ hw₂)
      (stepNext_of_advance hr (by nofun) (advance_of_dgram rfl hreply)) (by omega)
  exact run_snoc hreceive (stepNext_of_advance hd (by nofun) (advance_decode rfl)) (by omega)

end

/-- Settles O35: a run for each of the three endings, from the state with its own moments before it. -/
theorem stepsCarryOutExchange : Obligations.StepsCarryOutExchange := by
  intro s e a r d w₁ w₂ rest hp hv hm he ha hr hd hr₁ hr₂ hw₁ hw₂
  refine ⟨fun cause hf hfail event => ?_, fun cause hf hsent hfail => ?_, fun bs src hf hsent hreply => ?_⟩ <;>
    simp only [List.cons_append, List.append_assoc] at hf
  · have hrun := run_to_sendFailed (ms := rest) hp hv hm he hr₁ hw₁ ha hfail
    rw [withMoments_of_future hf] at hrun
    exact ⟨_, hrun, rfl, rfl, rfl, rfl⟩
  · have hrun := run_to_receiveFailed (ms := rest) hp hv hm he hr₁ hw₁ ha hsent hr₂ hw₂ hr hfail
    rw [withMoments_of_future hf] at hrun
    exact ⟨_, hrun, rfl, rfl, rfl, rfl⟩
  · have hrun := run_to_reply (ms := rest) hp hv hm he hr₁ hw₁ ha hsent hr₂ hw₂ hr hd hreply
    rw [withMoments_of_future hf] at hrun
    obtain ⟨hphase, hframe, hfuture⟩ := decodeAndComplete_frame
      (receiveDatagram bs (withMoments (d :: rest) (awaitReply (requested s.port s))))
    exact ⟨_, hrun, by rw [State.moments, nextMoment, hfuture]; rfl, hphase, hframe, decodeAndComplete_completions ..⟩

end Sys2Proof.Machine

/-! ## The host's arithmetic

A ratio stands for the number `num / den`, and the host computes with natural numbers alone. Here each computation is
tied to that number: the steps sent are the floor of the exact product, which fits when that product does, and the
degrees read are the floor of the exact quotient (R129, R140 to R146). -/

namespace Sys2Proof.Machine.HostLayer

theorem Ratio.value_eq_zero_iff {r : Ratio} (hden : r.den ≠ 0) : r.value = 0 ↔ r.num = 0 := by
  simp [Ratio.value, hden]

theorem natCast_mul_value (n : Nat) (r : Ratio) : (n : Rat) * r.value = ((n * r.num : Nat) : Rat) / r.den := by
  rw [Ratio.value, Nat.cast_mul, mul_div_assoc]

theorem productFits_iff {modulus deg : Nat} {r : Ratio} (hden : r.den ≠ 0) :
    productFits modulus r deg = true ↔ ((deg % modulus : Nat) : Rat) * r.value ≤ 0xFFFF := by
  have hpos : (0 : Rat) < r.den := Nat.cast_pos.2 (Nat.pos_of_ne_zero hden)
  rw [natCast_mul_value, div_le_iff₀ hpos, productFits, decide_eq_true_iff]
  exact_mod_cast Iff.rfl

theorem stepsOf_eq_floor (modulus deg : Nat) (r : Ratio) :
    stepsOf modulus r deg = ⌊((deg % modulus : Nat) : Rat) * r.value⌋₊ := by
  rw [natCast_mul_value, Nat.floor_div_eq_div, stepsOf]

theorem stepsOf_of_integer {modulus deg : Nat} {r : Ratio} (hden : r.den = 1) :
    stepsOf modulus r deg = deg % modulus * r.num := by
  rw [stepsOf, hden, Nat.div_one]

/-- What a degree setter sends, whichever command `cmd` it issues (R129, R142, R143). -/
theorem map_stepsOperand_of_le {modulus deg : Nat} {r : Ratio} (cmd : Value → Instr) (hden : r.den ≠ 0)
    (h : ((deg % modulus : Nat) : Rat) * r.value ≤ 0xFFFF) :
    ∃ v : Value, v.toNat = ⌊((deg % modulus : Nat) : Rat) * r.value⌋₊ ∧
      (r.den = 1 → v.toNat = deg % modulus * r.num) ∧ (stepsOperand modulus r deg).map cmd = .ok (cmd v) := by
  obtain ⟨v, hv, hok⟩ := stepsOperand_ok ((productFits_iff hden).2 h)
  exact ⟨v, hv.trans (stepsOf_eq_floor ..), fun h1 => hv.trans (stepsOf_of_integer h1), congrArg (Except.map cmd) hok⟩

/-- A degree setter's fault for a product over 0xFFFF (R146). -/
theorem map_stepsOperand_of_lt {modulus deg : Nat} {r : Ratio} (cmd : Value → Instr) (hden : r.den ≠ 0)
    (h : 0xFFFF < ((deg % modulus : Nat) : Rat) * r.value) :
    (stepsOperand modulus r deg).map cmd = .error .stepsOverflow :=
  congrArg (Except.map cmd) (stepsOperand_error
    (Bool.eq_false_iff.2 fun hfit => ((productFits_iff hden).1 hfit).not_gt h))

theorem degreesOf_of_ne_zero {r : Ratio} (hnum : r.num ≠ 0) (v : Value) :
    degreesOf r v = .ok (.degrees (v.toNat * r.den / r.num)) := if_neg hnum

theorem degreesOf_of_zero {r : Ratio} (hnum : r.num = 0) (v : Value) : degreesOf r v = .error .divisionByZero :=
  if_pos hnum

theorem degrees_eq_floor_div_value (n : Nat) (r : Ratio) : n * r.den / r.num = ⌊(n : Rat) / r.value⌋₊ := by
  rw [Ratio.value, div_div_eq_mul_div, ← Nat.cast_mul, Nat.floor_div_eq_div]

/-- What a degree read makes of the steps (R129, R140, R141). -/
theorem degreesOf_of_value_ne_zero {r : Ratio} (hden : r.den ≠ 0) (h : r.value ≠ 0) (v : Value) :
    ∃ g, degreesOf r v = .ok (.degrees g) ∧ g = ⌊(v.toNat : Rat) / r.value⌋₊ ∧ (r.den = 1 → g = v.toNat / r.num) :=
  ⟨_, degreesOf_of_ne_zero (mt (Ratio.value_eq_zero_iff hden).2 h) v, degrees_eq_floor_div_value .., fun h1 => by
    rw [h1, Nat.mul_one]⟩

theorem signedReading_eq_toInt (v : Value) : signedReading v = v.toInt := by
  have hsign : 2 * v.toNat < 2 ^ 16 ↔ v.toNat < 0x8000 := by omega
  simp only [signedReading, BitVec.toInt_eq_toNat_cond, hsign]
  rfl

/-- A pan setter that sends steps sends the floored product: one whose product does not fit sends nothing. -/
theorem toNat_of_setPanDegrees {c : Calibration} {deg : Nat} {v : Value}
    (h : commandFor udp c (.setPanDegrees deg) = .ok (.setPanSteps v)) : v.toNat = stepsOf 360 c.panRatio deg := by
  have hmap : (stepsOperand 360 c.panRatio deg).map .setPanSteps = Except.ok (Instr.setPanSteps v) := h
  cases hfit : productFits 360 c.panRatio deg with
  | true =>
    obtain ⟨w, hw, hok⟩ := stepsOperand_ok hfit
    rw [hok] at hmap
    cases hmap
    exact hw
  | false =>
    rw [stepsOperand_error hfit] at hmap
    cases hmap

/-- Settles O53: the signed reading is the two's complement of the library. -/
theorem temperatureIsSigned : Obligations.TemperatureIsSigned := fun _ v =>
  ⟨rfl, congrArg (fun t => Except.ok (HostValue.signed t)) (signedReading_eq_toInt v)⟩

/-- Settles O54: the quotient by 100 is exact. -/
theorem voltageIsHundredths : Obligations.VoltageIsHundredths := fun _ _ =>
  ⟨rfl, _, rfl, div_mul_cancel₀ _ (by decide)⟩

/-- Settles O55: each setter's command carries `stepsOperand` of its own modulus and ratio. -/
theorem degreeSettersSendSteps : Obligations.DegreeSettersSendSteps := fun _ _ _ hpan htilt =>
  ⟨map_stepsOperand_of_le .setPanSteps hpan, map_stepsOperand_of_le .setTiltSteps htilt,
    map_stepsOperand_of_lt .setPanSteps hpan, map_stepsOperand_of_lt .setTiltSteps htilt⟩

/-- Settles O56: each read's answer is `degreesOf` of its own ratio. -/
theorem degreeReadsTruncate : Obligations.DegreeReadsTruncate := fun _ _ v hpan htilt =>
  ⟨⟨rfl, rfl⟩, fun h => degreesOf_of_value_ne_zero hpan h v, fun h => degreesOf_of_value_ne_zero htilt h v,
    fun h => degreesOf_of_zero ((Ratio.value_eq_zero_iff hpan).1 h) v,
    fun h => degreesOf_of_zero ((Ratio.value_eq_zero_iff htilt).1 h) v⟩

/-- Settles O58: the floored steps are at most the product, so their quotient is at most the degrees; with the
denominator 1 neither floor loses anything. -/
theorem degreeRoundTrip : Obligations.DegreeRoundTrip := by
  intro r tilt deg v hnum hden hcmd
  have hv : v.toNat = stepsOf 360 r deg := toNat_of_setPanDegrees hcmd
  have hle : stepsOf 360 r deg * r.den ≤ deg % 360 * r.num := Nat.div_mul_le_self ..
  refine ⟨_, degreesOf_of_ne_zero hnum v, ?_, fun h1 => ?_⟩
  · rw [hv]
    exact Nat.div_le_of_le_mul (by rwa [Nat.mul_comm r.num])
  · rw [hv, stepsOf_of_integer h1, h1, Nat.mul_one, Nat.mul_div_cancel _ (Nat.pos_of_ne_zero hnum)]

end Sys2Proof.Machine.HostLayer

/-! ## Construction

How construction ends, given how its two exchanges did (R127, R128, R130). -/

namespace Sys2Proof.Machine.HostLayer

@[simp] theorem completionValue_ok (v : Value) : completionValue (.ok v) = .ok v := rfl

theorem ratioOf_of_zero {kind : RatioKind} {maxSteps : Value} {n : Nat} (hn : n = 0) :
    ratioOf kind maxSteps n = .error .divisionByZero := if_pos hn

theorem ratioOf_integer (maxSteps : Value) {n : Nat} (hn : n ≠ 0) :
    ratioOf .integer maxSteps n = .ok ⟨maxSteps.toNat / n, 1⟩ := if_neg hn

theorem ratioOf_real (maxSteps : Value) {n : Nat} (hn : n ≠ 0) :
    ratioOf .real maxSteps n = .ok ⟨maxSteps.toNat, n⟩ := if_neg hn

theorem ratioOf_of_ne_zero (kind : RatioKind) (maxSteps : Value) {n : Nat} (hn : n ≠ 0) :
    ∃ r, ratioOf kind maxSteps n = .ok r := by
  cases kind with
  | integer => exact ⟨_, ratioOf_integer maxSteps hn⟩
  | real => exact ⟨_, ratioOf_real maxSteps hn⟩

section
variable {p : Params} {s s₁ s₂ : State} {pan tilt : Value} {r : Completion} {e : HostFault}

theorem construct_of_panFailed (h₁ : issue .getPanMaxSteps (configure p s) = some (s₁, r))
    (he : completionValue r = .error e) : construct p s = some (.failed s₁ e) := by
  rw [construct, h₁, Option.bind_some, he]

theorem construct_of_tiltFailed (h₁ : issue .getPanMaxSteps (configure p s) = some (s₁, .ok pan))
    (h₂ : issue .getTiltMaxSteps s₁ = some (s₂, r)) (he : completionValue r = .error e) :
    construct p s = some (.failed s₂ e) := by
  simp only [construct, h₁, Option.bind_some, completionValue_ok, h₂, Option.map_some, he]

theorem construct_of_bothRead (h₁ : issue .getPanMaxSteps (configure p s) = some (s₁, .ok pan))
    (h₂ : issue .getTiltMaxSteps s₁ = some (s₂, .ok tilt)) :
    construct p s = some (calibrated p pan tilt s₂) := by
  simp only [construct, h₁, Option.bind_some, completionValue_ok, h₂, Option.map_some]

theorem calibrated_of_ratios {panRatio tiltRatio : Ratio} (h₁ : ratioOf p.kind pan p.maxPanDegrees = .ok panRatio)
    (h₂ : ratioOf p.kind tilt p.maxTiltDegrees = .ok tiltRatio) :
    calibrated p pan tilt s = .device { block := s, panRatio := panRatio, tiltRatio := tiltRatio } := by
  rw [calibrated, calibrate, h₁, h₂]
  rfl

/-- Either zero faults, and the pan ratio's comes first (R130, log entry 14). -/
theorem calibrated_of_zero (h : p.maxPanDegrees = 0 ∨ p.maxTiltDegrees = 0) :
    calibrated p pan tilt s = .failed s .divisionByZero := by
  rw [calibrated, calibrate]
  by_cases hpan : p.maxPanDegrees = 0
  · rw [ratioOf_of_zero hpan]
    rfl
  · obtain ⟨panRatio, h₁⟩ := ratioOf_of_ne_zero p.kind pan hpan
    rw [h₁, ratioOf_of_zero (h.resolve_left hpan)]
    rfl

end

/-- Settles O57: both exchanges give their maximum steps, and the ratios are computed from those. -/
theorem calibrationRatios : Obligations.CalibrationRatios := by
  intro p s s₁ s₂ pan tilt h₁ h₂
  rw [construct_of_bothRead h₁ h₂]
  refine ⟨fun hpan htilt hkind => ?_, fun hpan htilt hkind => ?_, fun h => congrArg some (calibrated_of_zero h)⟩
  · exact congrArg some (calibrated_of_ratios (hkind ▸ ratioOf_integer pan hpan) (hkind ▸ ratioOf_integer tilt htilt))
  · exact congrArg some (calibrated_of_ratios (hkind ▸ ratioOf_real pan hpan) (hkind ▸ ratioOf_real tilt htilt))

/-- Settles O59: `finish` and `construct` hand an error on, and a setter's result is `done` for every value. -/
theorem hostSurfacesErrors : Obligations.HostSurfacesErrors :=
  ⟨fun _ _ _ => ⟨fun _ _ => rfl, rfl⟩, fun _ _ _ _ => ⟨rfl, rfl, rfl, rfl⟩, fun _ _ _ _ _ => construct_of_panFailed,
    fun _ _ _ _ _ _ _ => construct_of_tiltFailed⟩

end Sys2Proof.Machine.HostLayer

/-! ## An operation of a Device

`issue_some` of `Laws/Host.lean` says what an exchange that ends has done. Here: it ends as soon as some run of the
block delivers a record, and with that record, because a record delivered stays. -/

namespace Sys2Proof.Machine.HostLayer

/-- The host takes the record that a run within its fuel delivers. -/
theorem awaitRecord_of_run {n k fuel : Nat} {s t : State} {r : Completion} (hk : run k s = .next t)
    (hn : s.completions.length ≤ n) (hr : t.completions[n]? = some r) (hfuel : k ≤ fuel) :
    ∃ u, awaitRecord n fuel s = some (u, r) := by
  induction k generalizing s fuel with
  | zero =>
    cases hk
    rw [List.getElem?_eq_none hn] at hr
    cases hr
  | succ k ih =>
    obtain ⟨fuel, rfl⟩ : ∃ f, fuel = f + 1 := ⟨fuel - 1, by omega⟩
    rw [run_succ] at hk
    rw [awaitRecord_succ]
    cases hnext : (stepNext s).completions[n]? with
    | none => exact ih hk (List.getElem?_eq_none_iff.1 hnext) (by omega)
    | some r' =>
      obtain ⟨-, ⟨later, hlater⟩, -⟩ := runsSendRequestsToTheEndpoint k _ _ hk
      obtain ⟨hlt, -⟩ := List.getElem?_eq_some_iff.1 hnext
      have hkept : t.completions[n]? = some r' := by rw [← hlater, List.getElem?_append_left hlt, hnext]
      cases hkept.symm.trans hr
      exact ⟨_, rfl⟩

theorem issue_of_run {i : Instr} {k : Nat} {s t : State} {r : Completion} (hp : s.phase = .idle)
    (hk : run k (presentCommand i s) = .next t) (hc : t.completions = s.completions ++ [r])
    (hfuel : k ≤ s.future.length + 2) : ∃ u, issue i s = some (u, r) := by
  rw [issue, if_pos (by simp [State.ready, State.busy, hp])]
  exact awaitRecord_of_run hk le_rfl (by simp [hc]) hfuel

/-- Each wait answered at its first moment, the exchange is the one without waits of `StepsCarryOutExchange` (R100). -/
theorem issue_of_prompt_answers {i : Instr} {s : State} {m a r x : Inputs} {rest : List Inputs} {answer : SendAnswer}
    {event : ReceiveEvent} (hp : s.phase = .idle) (hrst : s.port.rst = false) (hf : s.future = m :: a :: r :: x :: rest)
    (hno : NoReset [m, a, r, x]) (ha : a.tsAnswer = some answer) (hr : r.trEvent = some event) :
    ∃ u, issue i s = some (u, (exchange (selectorOf i) ((operandOf i).getD 0x0000#16) answer event).2) := by
  have hquiet : (presentCommand i s).future = quiet m :: quiet a :: quiet r :: quiet x :: rest.map quiet :=
    congrArg (List.map quiet) hf
  have hfuel : 5 ≤ s.future.length + 2 := by simp [hf]
  simp only [NoReset, List.forall_mem_cons] at hno
  obtain ⟨hm, ha', hr', hx, -⟩ := hno
  have hsteps ms := stepsCarryOutExchange (presentCommand i s) (quiet m) (quiet a) (quiet r) (quiet x) [] [] ms hp rfl
    hrst hm ha' hr' hx nofun nofun nofun nofun
  match answer, event with
  | .fail cause, event =>
    obtain ⟨hends, -, -⟩ := hsteps (quiet r :: quiet x :: rest.map quiet)
    obtain ⟨t, hrun, -, -, -, hc⟩ := hends cause hquiet ha event
    exact issue_of_run hp hrun hc (hfuel.trans' (by decide))
  | .sent, .fail cause =>
    obtain ⟨-, hends, -⟩ := hsteps (quiet x :: rest.map quiet)
    obtain ⟨t, hrun, -, -, -, hc⟩ := hends cause hquiet ha hr
    exact issue_of_run hp hrun hc (hfuel.trans' (by decide))
  | .sent, .dgram bytes src =>
    obtain ⟨-, -, hends⟩ := hsteps (rest.map quiet)
    obtain ⟨t, hrun, -, -, -, hc⟩ := hends bytes src hquiet ha hr
    exact issue_of_run hp hrun hc hfuel

section
variable {v : Interface} {op : HostOp} {d : Device} {i : Instr} {e : HostFault}

theorem operate_of_error (h : commandFor v d.toCalibration op = .error e) : operate v op d = some (d, .error e) := by
  rw [operate, h]

theorem operate_of_ok (h : commandFor v d.toCalibration op = .ok i) :
    operate v op d =
      (issue i d.block).map fun x => ({ d with block := x.1 }, finish v d.toCalibration op x.2) := by
  rw [operate, h]

/-- An operation a variant does not override issues no command (R123). -/
theorem commandFor_of_notSupported (h : v.method op = notSupported) (c : Calibration) :
    commandFor v c op = .error .notSupported := by
  rw [commandFor, h]
  rfl

end

/-- Settles O60: an operation that ends has the record that `issue_some` speaks of, and it ends when `issue` does. -/
theorem hostCallSendsItsCommand : Obligations.HostCallSendsItsCommand := by
  refine ⟨fun c => ⟨?_, fun _ => ⟨rfl, rfl⟩, ?_⟩, fun v op d => ⟨?_, ?_, ?_, ?_⟩⟩
  · simp only [List.forall_mem_cons]
    exact ⟨rfl, rfl, rfl, rfl, rfl, rfl, rfl, rfl, nofun⟩
  · simp only [List.forall_mem_cons]
    exact ⟨fun _ => rfl, fun _ => rfl, fun _ => rfl, fun _ => rfl, nofun⟩
  · exact fun h => operate_of_error (commandFor_of_notSupported h _)
  · exact fun _ => operate_of_error
  · intro i d' x hi h
    rw [operate_of_ok hi] at h
    obtain ⟨⟨t, r⟩, hissue, hend⟩ := Option.map_eq_some_iff.1 h
    obtain ⟨hphase, hep, hsent, hcompletions⟩ := issue_some hissue
    cases hend
    exact ⟨rfl, hep, hphase, _, r, hsent, blockBuildsTheTableFrame .., hcompletions, rfl⟩
  · intro i m a r x rest answer event hi hp hrst hf hno ha hr
    obtain ⟨t, hissue⟩ := issue_of_prompt_answers hp hrst hf hno ha hr
    exact ⟨_, by rw [operate_of_ok hi, hissue]; rfl⟩

end Sys2Proof.Machine.HostLayer

/-! ## Error completions, and events out of phase

Only `raise` delivers an error record, so an error completion is its effect alone (R158). An event that the phase does not
wait for is no part of what decides the step (R156). -/

namespace Sys2Proof.Machine

/-- The two operations that deliver a record: a success its result, an error its own record. -/
theorem ok_or_raise_of_delivers {s : State} {f : State → State} {c : Completion} (hf : Moves s f)
    (hc : (f s).completions = s.completions ++ [c]) :
    (∃ v, c = .ok v) ∨ ∃ e, c = errorRecord e ∧ f s = raise e s := by
  cases hf with
  | reset | accept => simp at hc
  | advance hf =>
    cases hf with
    | wait | buildAndSend | awaitReply | receive => simp [awaitReply] at hc
    | error _ e => exact .inr ⟨e, by simpa using hc.symm, rfl⟩
    | ok _ v => exact .inl ⟨v, by simpa using hc.symm⟩

/-- Settles O29: the step that delivers an error record is `raise`, and the record says of which error. -/
theorem errorCompletionWritesNothingElse : Obligations.ErrorCompletionWritesNothingElse := by
  intro s t c hst hc
  obtain ⟨f, hf, hb⟩ := blockNext_eq s
  obtain rfl : t = nextMoment (f s) := hb ▸ step_next_iff.1 hst
  rcases ok_or_raise_of_delivers hf hc with ⟨v, rfl⟩ | ⟨e, rfl, hraise⟩
  · exact ⟨nofun, nofun⟩
  · rw [hraise]
    cases e with
    | sendFailed | receiveFailed => exact ⟨by rintro _ _ ⟨⟩; rfl, nofun⟩
    | malformedReply => exact ⟨nofun, fun _ => rfl⟩

theorem step_eq_of_sameCue {s : State} {m : Inputs} (h : SameCue s { s with port := m }) :
    step { s with port := m } = step s := by
  rw [step_eq, step_eq]
  exact congrArg _ (stepNext_eq_of_sameCue h).symm

/-- Settles O44: the answer decides in `SEND` alone, and the event in `AWAIT` alone. -/
theorem eventsAreTakenInTheirPhaseOnly : Obligations.EventsAreTakenInTheirPhaseOnly :=
  ⟨fun s _ hp => step_eq_of_sameCue { sameCue_refl s with answer := fun h => absurd h hp },
    fun s _ hp => step_eq_of_sameCue { sameCue_refl s with event := fun h => absurd h hp }⟩

end Sys2Proof.Machine

/-! ## Reset

`RST` is looked at before the phase, so the step is `takeReset` from any phase (R170), also where another operation is
enabled (log entry 2). -/

namespace Sys2Proof.Machine

theorem step_of_reset {s : State} (hr : s.port.rst = true) : step s = .next (nextMoment (takeReset s)) :=
  (step_eq s).trans (congrArg _ (stepNext_of_reset hr))

/-- Settles O41: `takeReset` writes `PHASE` (and so `BUSY`), `RVALID` and `STATUS`, and keeps `EP`, the datagrams and the
records; the passing of the moment changes none of them. -/
theorem resetFromAnyPhase : Obligations.ResetFromAnyPhase :=
  fun _ hr => ⟨_, step_of_reset hr, rfl, rfl, rfl, rfl, rfl, rfl, rfl⟩

end Sys2Proof.Machine
